-- ==== Sys2Proof/Word.lean ====
section
/-! DEFINITION. The words of the block: bytes, the unsigned widths of 00_scope.md R10, and the 4-byte sequence. -/

namespace Sys2Proof

/-- A byte (`u8`, 00_scope.md R10). -/
abbrev Byte := BitVec 8

/-- `u16` (00_scope.md R10). -/
abbrev U16 := BitVec 16

/-- `u32` (00_scope.md R10): a command word, an address or length operand. -/
abbrev U32 := BitVec 32

/-- `u64` (00_scope.md R10): an operand or result register. -/
abbrev U64 := BitVec 64

/-- A sequence of exactly 4 bytes, index 0 first: an IV, a frame header, an AES key word
(00_scope.md R7, R13; 43_rolling_iv.md R107). -/
structure Bytes4 where
  b0 : Byte
  b1 : Byte
  b2 : Byte
  b3 : Byte
deriving DecidableEq, Repr

/-- `[0, 0, 0, 0]`, what reset and close leave in an IV (10_state.md R33). -/
def Bytes4.zero : Bytes4 := ⟨0, 0, 0, 0⟩

/-- The four bytes as a list, index 0 first. -/
def Bytes4.toList (q : Bytes4) : List Byte := [q.b0, q.b1, q.b2, q.b3]

/-- The four bytes exclusive-ORed one by one. -/
def Bytes4.xor (p q : Bytes4) : Bytes4 := ⟨p.b0 ^^^ q.b0, p.b1 ^^^ q.b1, p.b2 ^^^ q.b2, p.b3 ^^^ q.b3⟩

end Sys2Proof
end

