-- ==== Sys2Proof/Syntax.lean ====
section
/-! DEFINITION. The 23 commands of 30_encoding.md R76, one constructor per row of spec/opcode_table.json, with the
fields each one uses. -/

namespace Sys2Proof

/-- The `D` field: which RollingIv KS_XFORM uses (30_encoding.md R72). -/
inductive Side where
  | encrypt
  | decrypt
deriving DecidableEq, Repr

/-- The `W` field: the width of RD_INT and WR_INT, 2^W bytes (30_encoding.md R73). -/
inductive Width where
  | w1
  | w2
  | w4
  | w8
deriving DecidableEq, Repr

/-- The commands. `safe` is the `S` field (30_encoding.md R71); `csr` and `n` are the `IMM16` field (R74), as numbers
that `Instr.WellFormed` bounds. -/
inductive Instr where
  | sessInit
  | sessClose
  | csrRead (csr : Nat)
  | csrWrite (csr : Nat)
  | tpEnc
  | tpDec
  | shuffle
  | ksXform (side : Side)
  | hdrBuild
  | hdrCheck
  | txPack
  | rxFeed
  | rxRelease
  | rdWin
  | rdInt (safe : Bool) (width : Width)
  | rdLstr (safe : Bool)
  | rdPstr (safe : Bool) (n : Nat)
  | rdFully
  | wrWin
  | wrInt (width : Width)
  | wrLstr
  | wrPstr (n : Nat)
  | wrBytes
deriving DecidableEq, Repr

end Sys2Proof
end

