-- ==== Sys2Proof/WellFormed.lean ====
section
/-! DEFINITION. Which terms of `Instr` are commands: `IMM16` is a 16-bit unsigned immediate (30_encoding.md R74). Every
other field is a finite type, so it holds no illegal value. -/

namespace Sys2Proof

/-- `v` fits the 16-bit field `IMM16` (30_encoding.md R70, R74). -/
abbrev FitsImm16 (v : Nat) : Prop := v < 2 ^ 16

/-- The fields of the command fit their places in the word. A reserved CSR number and N = 0 are well formed: they are
legal encodings that the command refuses when it runs (30_encoding.md R80). -/
def Instr.wellFormed : Instr → Bool
  | .csrRead csr => decide (FitsImm16 csr)
  | .csrWrite csr => decide (FitsImm16 csr)
  | .rdPstr _ n => decide (FitsImm16 n)
  | .wrPstr n => decide (FitsImm16 n)
  | .sessInit | .sessClose | .tpEnc | .tpDec | .shuffle | .ksXform _ | .hdrBuild | .hdrCheck => true
  | .txPack | .rxFeed | .rxRelease | .rdWin | .rdInt _ _ | .rdLstr _ | .rdFully => true
  | .wrWin | .wrInt _ | .wrLstr | .wrBytes => true

end Sys2Proof
end

