-- ==== Sys2Proof/Decode.lean ====
section
/-! DEFINITION. The decoder of 30_encoding.md, total on all 2^32 words (R79), and the encoder written from the same
table (R70, R76). -/

namespace Sys2Proof

/-- Why a word is no command (30_encoding.md R78). -/
inductive Reject where
  /-- `OPC` is not in the opcode map of R76. -/
  | unassignedOpcode
  /-- `RSV` is not 0. -/
  | reservedField
  /-- A field that R76 does not list for the opcode is not 0. -/
  | unusedField
deriving DecidableEq, Repr

/-- The fields of a command word, as unsigned numbers (30_encoding.md R70). -/
structure Fields where
  opc : Nat
  rsv : Nat
  s : Nat
  d : Nat
  w : Nat
  imm : Nat
deriving DecidableEq, Repr

/-- `v[hi:lo]` as an unsigned number (00_scope.md R10). -/
def wordField (v : U32) (hi lo : Nat) : Nat := v.toNat / 2 ^ lo % 2 ^ (hi + 1 - lo)

/-- The fields of a word, at the places of 30_encoding.md R70. -/
def fieldsOf (v : U32) : Fields where
  opc := wordField v 31 24
  rsv := wordField v 23 20
  s := wordField v 19 19
  d := wordField v 18 18
  w := wordField v 17 16
  imm := wordField v 15 0

/-- The word with the given fields and `RSV` = 0 (30_encoding.md R70). -/
def wordOf (opc s d w imm : Nat) : U32 :=
  BitVec.ofNat 32 (opc * 2 ^ 24 + s * 2 ^ 19 + d * 2 ^ 18 + w * 2 ^ 16 + imm)

/-- `D` = 0 is the encrypt side and `D` = 1 the decrypt side (30_encoding.md R72). -/
def sideOfBit (d : Nat) : Side := if d = 1 then .decrypt else .encrypt

/-- The `D` bit of a side (30_encoding.md R72). -/
def bitOfSide : Side → Nat
  | .encrypt => 0
  | .decrypt => 1

/-- The width of a `W` code (30_encoding.md R73). -/
def widthOfCode : Nat → Width
  | 0 => .w1
  | 1 => .w2
  | 2 => .w4
  | _ => .w8

/-- The `W` code of a width (30_encoding.md R73). -/
def codeOfWidth : Width → Nat
  | .w1 => 0
  | .w2 => 1
  | .w4 => 2
  | .w8 => 3

/-- The `S` bit of a reader flavour (30_encoding.md R71). -/
def bitOfSafe (safe : Bool) : Nat := if safe then 1 else 0

/-- The command `i`, if every field that its opcode does not use is 0: `unused` lists them (30_encoding.md R78). -/
def withUnused (unused : List Nat) (i : Instr) : Except Reject Instr :=
  if unused.all (· == 0) then .ok i else .error .unusedField

/-- The opcode map of 30_encoding.md R76, over the fields of a word. -/
def decodeFields (f : Fields) : Except Reject Instr :=
  if f.rsv ≠ 0 then .error .reservedField
  else match f.opc with
    | 0x01 => withUnused [f.s, f.d, f.w, f.imm] .sessInit
    | 0x02 => withUnused [f.s, f.d, f.w, f.imm] .sessClose
    | 0x03 => withUnused [f.s, f.d, f.w] (.csrRead f.imm)
    | 0x04 => withUnused [f.s, f.d, f.w] (.csrWrite f.imm)
    | 0x10 => withUnused [f.s, f.d, f.w, f.imm] .tpEnc
    | 0x11 => withUnused [f.s, f.d, f.w, f.imm] .tpDec
    | 0x18 => withUnused [f.s, f.d, f.w, f.imm] .shuffle
    | 0x20 => withUnused [f.s, f.w, f.imm] (.ksXform (sideOfBit f.d))
    | 0x21 => withUnused [f.s, f.d, f.w, f.imm] .hdrBuild
    | 0x22 => withUnused [f.s, f.d, f.w, f.imm] .hdrCheck
    | 0x30 => withUnused [f.s, f.d, f.w, f.imm] .txPack
    | 0x31 => withUnused [f.s, f.d, f.w, f.imm] .rxFeed
    | 0x32 => withUnused [f.s, f.d, f.w, f.imm] .rxRelease
    | 0x40 => withUnused [f.s, f.d, f.w, f.imm] .rdWin
    | 0x41 => withUnused [f.d, f.imm] (.rdInt (f.s == 1) (widthOfCode f.w))
    | 0x42 => withUnused [f.d, f.w, f.imm] (.rdLstr (f.s == 1))
    | 0x43 => withUnused [f.d, f.w] (.rdPstr (f.s == 1) f.imm)
    | 0x44 => withUnused [f.s, f.d, f.w, f.imm] .rdFully
    | 0x48 => withUnused [f.s, f.d, f.w, f.imm] .wrWin
    | 0x49 => withUnused [f.s, f.d, f.imm] (.wrInt (widthOfCode f.w))
    | 0x4A => withUnused [f.s, f.d, f.w, f.imm] .wrLstr
    | 0x4B => withUnused [f.s, f.d, f.w] (.wrPstr f.imm)
    | 0x4C => withUnused [f.s, f.d, f.w, f.imm] .wrBytes
    | _ => .error .unassignedOpcode

/-- Decoding is total: every word is exactly one command or illegal (30_encoding.md R78, R79). -/
def decodeWord (v : U32) : Except Reject Instr := decodeFields (fieldsOf v)

/-- The word of a command (30_encoding.md R70, R76). -/
def encode : Instr → U32
  | .sessInit => wordOf 0x01 0 0 0 0
  | .sessClose => wordOf 0x02 0 0 0 0
  | .csrRead csr => wordOf 0x03 0 0 0 csr
  | .csrWrite csr => wordOf 0x04 0 0 0 csr
  | .tpEnc => wordOf 0x10 0 0 0 0
  | .tpDec => wordOf 0x11 0 0 0 0
  | .shuffle => wordOf 0x18 0 0 0 0
  | .ksXform side => wordOf 0x20 0 (bitOfSide side) 0 0
  | .hdrBuild => wordOf 0x21 0 0 0 0
  | .hdrCheck => wordOf 0x22 0 0 0 0
  | .txPack => wordOf 0x30 0 0 0 0
  | .rxFeed => wordOf 0x31 0 0 0 0
  | .rxRelease => wordOf 0x32 0 0 0 0
  | .rdWin => wordOf 0x40 0 0 0 0
  | .rdInt safe width => wordOf 0x41 (bitOfSafe safe) 0 (codeOfWidth width) 0
  | .rdLstr safe => wordOf 0x42 (bitOfSafe safe) 0 0 0
  | .rdPstr safe n => wordOf 0x43 (bitOfSafe safe) 0 0 n
  | .rdFully => wordOf 0x44 0 0 0 0
  | .wrWin => wordOf 0x48 0 0 0 0
  | .wrInt width => wordOf 0x49 0 0 (codeOfWidth width) 0
  | .wrLstr => wordOf 0x4A 0 0 0 0
  | .wrPstr n => wordOf 0x4B 0 0 0 n
  | .wrBytes => wordOf 0x4C 0 0 0 0

/-- The command that the decoder reads from the low `nbits` bits of `w`, every bit above them 0. A command is one
32-bit word, bit 0 its least significant bit (30_encoding.md R70, R81). -/
def decodeTableWord (nbits w : Nat) : Option Instr :=
  match decodeWord (BitVec.ofNat 32 (w % 2 ^ nbits)) with
  | .ok i => some i
  | .error _ => none

/-- The mnemonic of a command (30_encoding.md R76). -/
def mnemonicOf : Instr → String
  | .sessInit => "SESS_INIT"
  | .sessClose => "SESS_CLOSE"
  | .csrRead _ => "CSR_READ"
  | .csrWrite _ => "CSR_WRITE"
  | .tpEnc => "TP_ENC"
  | .tpDec => "TP_DEC"
  | .shuffle => "SHUFFLE"
  | .ksXform _ => "KS_XFORM"
  | .hdrBuild => "HDR_BUILD"
  | .hdrCheck => "HDR_CHECK"
  | .txPack => "TX_PACK"
  | .rxFeed => "RX_FEED"
  | .rxRelease => "RX_RELEASE"
  | .rdWin => "RD_WIN"
  | .rdInt _ _ => "RD_INT"
  | .rdLstr _ => "RD_LSTR"
  | .rdPstr _ _ => "RD_PSTR"
  | .rdFully => "RD_FULLY"
  | .wrWin => "WR_WIN"
  | .wrInt _ => "WR_INT"
  | .wrLstr => "WR_LSTR"
  | .wrPstr _ => "WR_PSTR"
  | .wrBytes => "WR_BYTES"

/-- One row of the match and mask table of 30_encoding.md R77. -/
structure OpcodeRow where
  mnemonic : String
  matchBits : U32
  maskBits : U32
deriving DecidableEq, Repr

/-- `w` selects the row when `(w & mask) = match` (30_encoding.md R77). -/
def OpcodeRow.selects (r : OpcodeRow) (w : U32) : Bool := w &&& r.maskBits == r.matchBits

/-- The table of 30_encoding.md R77, as the spec gives it: an independent account of which words are commands. -/
def opcodeRows : List OpcodeRow :=
  [⟨"SESS_INIT", 0x01000000, 0xFFFFFFFF⟩, ⟨"SESS_CLOSE", 0x02000000, 0xFFFFFFFF⟩,
   ⟨"CSR_READ", 0x03000000, 0xFFFF0000⟩, ⟨"CSR_WRITE", 0x04000000, 0xFFFF0000⟩,
   ⟨"TP_ENC", 0x10000000, 0xFFFFFFFF⟩, ⟨"TP_DEC", 0x11000000, 0xFFFFFFFF⟩,
   ⟨"SHUFFLE", 0x18000000, 0xFFFFFFFF⟩, ⟨"KS_XFORM", 0x20000000, 0xFFFBFFFF⟩,
   ⟨"HDR_BUILD", 0x21000000, 0xFFFFFFFF⟩, ⟨"HDR_CHECK", 0x22000000, 0xFFFFFFFF⟩,
   ⟨"TX_PACK", 0x30000000, 0xFFFFFFFF⟩, ⟨"RX_FEED", 0x31000000, 0xFFFFFFFF⟩] ++
  [⟨"RX_RELEASE", 0x32000000, 0xFFFFFFFF⟩, ⟨"RD_WIN", 0x40000000, 0xFFFFFFFF⟩,
   ⟨"RD_INT", 0x41000000, 0xFFF4FFFF⟩, ⟨"RD_LSTR", 0x42000000, 0xFFF7FFFF⟩,
   ⟨"RD_PSTR", 0x43000000, 0xFFF70000⟩, ⟨"RD_FULLY", 0x44000000, 0xFFFFFFFF⟩,
   ⟨"WR_WIN", 0x48000000, 0xFFFFFFFF⟩, ⟨"WR_INT", 0x49000000, 0xFFFCFFFF⟩,
   ⟨"WR_LSTR", 0x4A000000, 0xFFFFFFFF⟩, ⟨"WR_PSTR", 0x4B000000, 0xFFFF0000⟩,
   ⟨"WR_BYTES", 0x4C000000, 0xFFFFFFFF⟩]

end Sys2Proof
end

