-- ==== Sys2Proof/Config.lean ====
section
/-! DEFINITION. What is fixed when the block is built (00_scope.md R8, 10_state.md R42) and the free values: what the
spec leaves unspecified. The default parameter values stand in Machine/Params.lean. -/

namespace Sys2Proof

/-- The implementation parameters of 00_scope.md R8. "A model takes each one as an argument": they are a field of
`State` that no step changes, so a statement about every state is one about every parameter value (entry 1). -/
structure Params where
  /-- `XMEM_SIZE`, the bytes of exchange memory. -/
  xmemSize : Nat
  /-- `BLOCK_LEN`, the nominal maximum transmission block length that segments the keystream. -/
  blockLen : Nat
  /-- `AES_KEY`, 4 * `AES_NK` bytes. -/
  aesKey : List Byte
  /-- `SHUFFLE_TABLE`, 256 bytes. -/
  shuffleTable : List Byte
  /-- `SHUFFLE_SEED`, 4 bytes. -/
  shuffleSeed : Bytes4
deriving DecidableEq, Repr

/-- The constraints of 00_scope.md R8 on the parameters. -/
abbrev Params.Legal (p : Params) : Prop :=
  65539 ≤ p.xmemSize ∧ p.xmemSize ≤ 2 ^ 32 ∧ 5 ≤ p.blockLen ∧
    (p.aesKey.length = 16 ∨ p.aesKey.length = 24 ∨ p.aesKey.length = 32) ∧ p.shuffleTable.length = 256

/-- FREE VALUE. What software sees in a 32-bit register, or in a half of a descriptor, when the rules give it a value of
2^32 or more: `REND` and its like may reach `XMEM_SIZE` = 2^32 (10_state.md R40), and the spec does not say what 32 bits
then show (DESIGN CHOICE, entry 8). -/
opaque Config.wideValue : Nat → U32

/-- FREE VALUE. The value of one 64-bit register (0, 1, 2 for A0, A1, A2 and 3 for R0) after the host's `n`-th reset:
10_state.md R46 calls it unspecified, "arbitrary, fixed at reset" (entry 7). -/
opaque Config.resetRegister : Nat → Nat → U64

/-- FREE VALUE. The bytes of XMEM after the host's `n`-th reset: 20_memory.md R50, "an arbitrary byte array fixed at
reset" (entry 7). -/
opaque Config.resetXmem : Nat → List Byte

end Sys2Proof
end

