-- ==== Sys2Proof/Machine/Bits.lean ====
section
/-! DEFINITION. The notation of 00_scope.md R10 to R15: fields, rotations, byte sequences in registers, little-endian
values. -/

namespace Sys2Proof.Machine

/-- `v[hi:lo]` of a 64-bit register, as an unsigned number (00_scope.md R10). -/
def regField (v : U64) (hi lo : Nat) : Nat := v.toNat / 2 ^ lo % 2 ^ (hi + 1 - lo)

/-- Rotation of a byte to the left (00_scope.md R12). -/
def rotl8 (b : Byte) (n : Nat) : Byte := (b <<< (n % 8)) ||| (b >>> (8 - n % 8))

/-- Rotation of a byte to the right (00_scope.md R12). -/
def rotr8 (b : Byte) (n : Nat) : Byte := (b >>> (n % 8)) ||| (b <<< (8 - n % 8))

/-- Rotation of a 32-bit word to the left by `n`, 0 < n < 32 (00_scope.md R12). -/
def rotl32 (w : U32) (n : Nat) : U32 := (w <<< n) ||| (w >>> (32 - n))

/-- A 4-byte sequence in a register: byte k at bits [8k+7:8k] (20_memory.md R55). -/
def packBytes4 (q : Bytes4) : U32 := q.b3 ++ q.b2 ++ q.b1 ++ q.b0

/-- The 4-byte sequence that a register holds: byte k is bits [8k+7:8k] (20_memory.md R55, `bytes4` of
40_session_control.md R85). -/
def unpackBytes4 (w : U32) : Bytes4 :=
  ⟨w.extractLsb' 0 8, w.extractLsb' 8 8, w.extractLsb' 16 8, w.extractLsb' 24 8⟩

/-- `swap16` (00_scope.md R13). -/
def swap16 (v : U16) : U16 := ((v &&& 0xFF#16) <<< 8) ||| (v >>> 8)

/-- `BE16(b0, b1)` = b0 * 256 + b1 (00_scope.md R13). -/
def be16 (b0 b1 : Byte) : U16 := b0 ++ b1

/-- The high byte of a `u16`, bits [15:8]. -/
def hiByte (v : U16) : Byte := v.extractLsb' 8 8

/-- The low byte of a `u16`, bits [7:0]. -/
def loByte (v : U16) : Byte := v.extractLsb' 0 8

/-- `LE(s)`: the sum of `s[i]` * 256^i (00_scope.md R13). -/
def leValue : List Byte → Nat
  | [] => 0
  | b :: bs => b.toNat + 256 * leValue bs

/-- The `n` low bytes of `v`, least significant first (00_scope.md R15 `MemWrite`, 20_memory.md R53). -/
def leBytes : Nat → Nat → List Byte
  | 0, _ => []
  | n + 1, v => BitVec.ofNat 8 v :: leBytes n (v / 256)

/-- What 32 bits show of a value that the rules give a 32-bit register or half of a descriptor: the value itself where
it fits, and otherwise a free value, since the spec states none (entry 8). -/
def u32View (v : Nat) : U32 := if v < 2 ^ 32 then BitVec.ofNat 32 v else Config.wideValue v

/-- The descriptor `(zext_64(L) << 32) | zext_64(addr)` of a string result: the length in the high half, the address in
the low half (45_codec.md R136 to R138). A half whose number does not fit 32 bits shows a free value (entry 8). -/
def descriptor (len addr : Nat) : U64 := u32View len ++ u32View addr

end Sys2Proof.Machine
end

