-- ==== Sys2Proof/Machine/Aes.lean ====
section
/-! DEFINITION. The AES forward cipher (43_rolling_iv.md R105 to R108, which the spec marks as from general knowledge,
93_implementation_defined.md G3). -/

namespace Sys2Proof.Machine

/-- The S-box, one row of the table of 43_rolling_iv.md R106 a line. -/
def sboxRows : List (List Byte) :=
  [[0x63, 0x7C, 0x77, 0x7B, 0xF2, 0x6B, 0x6F, 0xC5, 0x30, 0x01, 0x67, 0x2B, 0xFE, 0xD7, 0xAB, 0x76],
   [0xCA, 0x82, 0xC9, 0x7D, 0xFA, 0x59, 0x47, 0xF0, 0xAD, 0xD4, 0xA2, 0xAF, 0x9C, 0xA4, 0x72, 0xC0],
   [0xB7, 0xFD, 0x93, 0x26, 0x36, 0x3F, 0xF7, 0xCC, 0x34, 0xA5, 0xE5, 0xF1, 0x71, 0xD8, 0x31, 0x15],
   [0x04, 0xC7, 0x23, 0xC3, 0x18, 0x96, 0x05, 0x9A, 0x07, 0x12, 0x80, 0xE2, 0xEB, 0x27, 0xB2, 0x75],
   [0x09, 0x83, 0x2C, 0x1A, 0x1B, 0x6E, 0x5A, 0xA0, 0x52, 0x3B, 0xD6, 0xB3, 0x29, 0xE3, 0x2F, 0x84],
   [0x53, 0xD1, 0x00, 0xED, 0x20, 0xFC, 0xB1, 0x5B, 0x6A, 0xCB, 0xBE, 0x39, 0x4A, 0x4C, 0x58, 0xCF],
   [0xD0, 0xEF, 0xAA, 0xFB, 0x43, 0x4D, 0x33, 0x85, 0x45, 0xF9, 0x02, 0x7F, 0x50, 0x3C, 0x9F, 0xA8],
   [0x51, 0xA3, 0x40, 0x8F, 0x92, 0x9D, 0x38, 0xF5, 0xBC, 0xB6, 0xDA, 0x21, 0x10, 0xFF, 0xF3, 0xD2],
   [0xCD, 0x0C, 0x13, 0xEC, 0x5F, 0x97, 0x44, 0x17, 0xC4, 0xA7, 0x7E, 0x3D, 0x64, 0x5D, 0x19, 0x73],
   [0x60, 0x81, 0x4F, 0xDC, 0x22, 0x2A, 0x90, 0x88, 0x46, 0xEE, 0xB8, 0x14, 0xDE, 0x5E, 0x0B, 0xDB],
   [0xE0, 0x32, 0x3A, 0x0A, 0x49, 0x06, 0x24, 0x5C, 0xC2, 0xD3, 0xAC, 0x62, 0x91, 0x95, 0xE4, 0x79],
   [0xE7, 0xC8, 0x37, 0x6D, 0x8D, 0xD5, 0x4E, 0xA9, 0x6C, 0x56, 0xF4, 0xEA, 0x65, 0x7A, 0xAE, 0x08],
   [0xBA, 0x78, 0x25, 0x2E, 0x1C, 0xA6, 0xB4, 0xC6, 0xE8, 0xDD, 0x74, 0x1F, 0x4B, 0xBD, 0x8B, 0x8A],
   [0x70, 0x3E, 0xB5, 0x66, 0x48, 0x03, 0xF6, 0x0E, 0x61, 0x35, 0x57, 0xB9, 0x86, 0xC1, 0x1D, 0x9E],
   [0xE1, 0xF8, 0x98, 0x11, 0x69, 0xD9, 0x8E, 0x94, 0x9B, 0x1E, 0x87, 0xE9, 0xCE, 0x55, 0x28, 0xDF],
   [0x8C, 0xA1, 0x89, 0x0D, 0xBF, 0xE6, 0x42, 0x68, 0x41, 0x99, 0x2D, 0x0F, 0xB0, 0x54, 0xBB, 0x16]]

/-- `SBOX[b]`: row `b / 16`, column `b mod 16` (43_rolling_iv.md R106). -/
def sbox (b : Byte) : Byte := (sboxRows.getD (b.toNat / 16) []).getD (b.toNat % 16) 0

/-- Multiplication by x in GF(2^8) modulo 0x11B (43_rolling_iv.md R107). -/
def xtime (b : Byte) : Byte := (b <<< 1) ^^^ (if b.msb then 0x1B else 0)

/-- The product of `a` and `b` in GF(2^8) modulo 0x11B, over the low `n` bits of `a` (43_rolling_iv.md R107). -/
def gmulBits : Nat → Byte → Byte → Byte
  | 0, _, _ => 0
  | n + 1, a, b => (if a.getLsbD 0 then b else 0) ^^^ gmulBits n (a >>> 1) (xtime b)

/-- `gmul(a, b)` (43_rolling_iv.md R107). -/
def gmul (a b : Byte) : Byte := gmulBits 8 a b

/-- A 16-byte block as its four columns: `s[r][c] = B[r + 4c]` (43_rolling_iv.md R108). -/
structure Block where
  c0 : Bytes4
  c1 : Bytes4
  c2 : Bytes4
  c3 : Bytes4
deriving DecidableEq, Repr

/-- `tile4(iv)` (00_scope.md R13). -/
def tile4 (iv : Bytes4) : Block := ⟨iv, iv, iv, iv⟩

/-- The block's bytes, `s[r][c]` at index r + 4c (43_rolling_iv.md R108). -/
def blockBytes (b : Block) : List Byte := b.c0.toList ++ b.c1.toList ++ b.c2.toList ++ b.c3.toList

/-- `B[j]` (43_rolling_iv.md R109). -/
def blockByte (b : Block) (j : Nat) : Byte := (blockBytes b).getD j 0

/-- `SubWord` (43_rolling_iv.md R107). -/
def subWord (w : Bytes4) : Bytes4 := ⟨sbox w.b0, sbox w.b1, sbox w.b2, sbox w.b3⟩

/-- `RotWord` (43_rolling_iv.md R107). -/
def rotWord (w : Bytes4) : Bytes4 := ⟨w.b1, w.b2, w.b3, w.b0⟩

/-- The round constants rc[1..10] (43_rolling_iv.md R107). -/
def roundConstant (i : Nat) : Byte :=
  ([0x01, 0x02, 0x04, 0x08, 0x10, 0x20, 0x40, 0x80, 0x1B, 0x36] : List Byte).getD (i - 1) 0

/-- `temp` of step i of the key expansion, from `w[i-1]` (43_rolling_iv.md R107). -/
def keyTemp (nk i : Nat) (prev : Bytes4) : Bytes4 :=
  if i % nk = 0 then (subWord (rotWord prev)).xor ⟨roundConstant (i / nk), 0, 0, 0⟩
  else if 6 < nk ∧ i % nk = 4 then subWord prev
  else prev

/-- `n` steps of the key expansion from step `i` on; the words so far stand newest first, so `w[i-1]` is at 0 and
`w[i-Nk]` at Nk - 1 (43_rolling_iv.md R107). -/
def expandSteps (nk : Nat) : Nat → Nat → List Bytes4 → List Bytes4
  | 0, _, ws => ws
  | n + 1, i, ws =>
    let w := (ws.getD (nk - 1) Bytes4.zero).xor (keyTemp nk i (ws.getD 0 Bytes4.zero))
    expandSteps nk n (i + 1) (w :: ws)

/-- The bytes of a list as 4-byte words, index 0 first. -/
def wordsOfBytes : List Byte → List Bytes4
  | a :: b :: c :: d :: rest => ⟨a, b, c, d⟩ :: wordsOfBytes rest
  | _ => []

/-- Four words a round key: `w[4k + c]` is column c of round key k (43_rolling_iv.md R108). -/
def blocksOfWords : List Bytes4 → List Block
  | a :: b :: c :: d :: rest => ⟨a, b, c, d⟩ :: blocksOfWords rest
  | _ => []

/-- The key schedule: Nk key words, then the words up to 4 * (Nr + 1) with Nr = Nk + 6 (43_rolling_iv.md R105, R107). -/
def roundKeys (key : List Byte) : List Block :=
  let nk := key.length / 4
  blocksOfWords (expandSteps nk (4 * (nk + 7) - nk) nk (wordsOfBytes key).reverse).reverse

/-- `AddRoundKey` (43_rolling_iv.md R108). -/
def addRoundKey (k b : Block) : Block := ⟨b.c0.xor k.c0, b.c1.xor k.c1, b.c2.xor k.c2, b.c3.xor k.c3⟩

/-- `SubBytes` (43_rolling_iv.md R108). -/
def subBytes (b : Block) : Block := ⟨subWord b.c0, subWord b.c1, subWord b.c2, subWord b.c3⟩

/-- `ShiftRows`: s'[r][c] = s[r][(c + r) mod 4] (43_rolling_iv.md R108). -/
def shiftRows (b : Block) : Block :=
  ⟨⟨b.c0.b0, b.c1.b1, b.c2.b2, b.c3.b3⟩, ⟨b.c1.b0, b.c2.b1, b.c3.b2, b.c0.b3⟩,
   ⟨b.c2.b0, b.c3.b1, b.c0.b2, b.c1.b3⟩, ⟨b.c3.b0, b.c0.b1, b.c1.b2, b.c2.b3⟩⟩

/-- `MixColumns` of one column (43_rolling_iv.md R108). -/
def mixColumn (a : Bytes4) : Bytes4 :=
  ⟨gmul 2 a.b0 ^^^ gmul 3 a.b1 ^^^ a.b2 ^^^ a.b3, a.b0 ^^^ gmul 2 a.b1 ^^^ gmul 3 a.b2 ^^^ a.b3,
   a.b0 ^^^ a.b1 ^^^ gmul 2 a.b2 ^^^ gmul 3 a.b3, gmul 3 a.b0 ^^^ a.b1 ^^^ a.b2 ^^^ gmul 2 a.b3⟩

/-- `MixColumns` (43_rolling_iv.md R108). -/
def mixColumns (b : Block) : Block := ⟨mixColumn b.c0, mixColumn b.c1, mixColumn b.c2, mixColumn b.c3⟩

/-- Rounds 1 to Nr over the round keys still to come; the last has no MixColumns (43_rolling_iv.md R108). -/
def aesRounds : List Block → Block → Block
  | [], b => b
  | [k], b => addRoundKey k (shiftRows (subBytes b))
  | k :: ks, b => aesRounds ks (addRoundKey k (mixColumns (shiftRows (subBytes b))))

/-- `AES(B)` under a key schedule (43_rolling_iv.md R108). -/
def aesWith (keys : List Block) (b : Block) : Block :=
  match keys with
  | [] => b
  | k :: ks => aesRounds ks (addRoundKey k b)

/-- `AES(B)` under a key (43_rolling_iv.md R105). -/
def aes (key : List Byte) (b : Block) : Block := aesWith (roundKeys key) b

end Sys2Proof.Machine
end

