-- ==== Sys2Proof/Machine/State.lean ====
section
/-! DEFINITION. Everything the spec gives the machine (10_state.md, 20_memory.md R47), as plain data, and the state
right after reset (10_state.md R46, 70_reset_and_hazards.md R161). -/

namespace Sys2Proof.Machine

/-- The completion codes of 60_exceptions.md R148, in the order of their numbers 0 to 9. -/
inductive Code where
  | ok
  | illegalCommand
  | boundsViolation
  | endOfStream
  | protocolViolation
  | sessionState
  | framePending
  | headerLength
  | writeOverflow
  | csrAccess
deriving DecidableEq, Repr

/-- `STATUS.SESS`: UNINIT, OPEN, CLOSED (10_state.md R25, R35). -/
inductive Session where
  | uninit
  | opened
  | closed
deriving DecidableEq, Repr

/-- `STATUS.RXST`, the reassembler's state (44_framer.md R127). -/
inductive RxPhase where
  | awaitingHeader
  | awaitingPayload
deriving DecidableEq, Repr

/-- `STATUS.CLOSE_REASON` (10_state.md R25). -/
inductive CloseReason where
  | notClosed
  | hostClose
  | invalidHeader
  | zeroLength
deriving DecidableEq, Repr

/-- The fields of `STATUS` (10_state.md R25). Its reserved bits read as 0 and are not stored. -/
structure Status where
  cc : Code
  ok : Bool
  v : Bool
  frame : Bool
  sess : Session
  rxst : RxPhase
  closeReason : CloseReason
  busy : Bool
deriving DecidableEq, Repr

/-- The two live bits of `EVENTS` and of `IRQ_EN`: [0] EV_FRAME, [1] EV_CLOSING (10_state.md R28, R29). The other bits
read as 0 and ignore writes, so they are not stored. -/
structure EventBits where
  frame : Bool
  closing : Bool
deriving DecidableEq, Repr

/-- A RollingIv: an IV and its version mask (10_state.md R30). -/
structure RollingIv where
  iv : Bytes4
  mask : U16
deriving DecidableEq, Repr

/-- A BoundedBuffer (10_state.md R36). `written` is the written prefix `storage[0..cap-free)`; the bytes of `storage`
past it are never read and are not held (entry 9). -/
structure BoundedBuffer where
  cap : Nat
  free : Nat
  written : List Byte
deriving DecidableEq, Repr

/-- A cursor window `[start, stop)` with its cursor `pos`: the reader's RSTART, REND, RPOS (10_state.md R40) and the
writer's WSTART, WEND, WPOS (R41). Exact numbers, since `stop` may be 2^32 (entry 8). -/
structure Window where
  start : Nat
  stop : Nat
  pos : Nat
deriving DecidableEq, Repr

/-- The operand registers (10_state.md R22). -/
inductive OperandReg where
  | a0
  | a1
  | a2
deriving DecidableEq, Repr

/-- What the host can do to the block, one constructor per interaction of 70_reset_and_hazards.md R172 (CSR_READ and
CSR_WRITE go through `writeCmd`). -/
inductive HostAction where
  | writeOperand (k : OperandReg) (v : U64)
  | writeResult (v : U64)
  | writeCmd (w : U32)
  | writeXmem (a : Nat) (bytes : List Byte)
  | readOperand (k : OperandReg)
  | readResult
  | readXmem (a n : Nat)
  | observeIrq
  | reset
deriving DecidableEq, Repr

/-- The exchange memory: the bytes that differ from what an unlisted address reads as, by strictly rising address
(20_memory.md R47). -/
abbrev Memory := List Host.Cell

/-- What an address that nothing has written reads as. 20_memory.md R50 leaves XMEM unspecified after reset
(DESIGN CHOICE, entry 3). -/
def unwrittenByte : Byte := 0

/-- The canonical form of a memory: strictly rising addresses, and no entry equal to what an unlisted address reads
as. Equal memories are then equal lists. -/
abbrev Memory.wf (m : Memory) : Prop :=
  m.Pairwise (fun x y => x.1 < y.1) ∧ ∀ x ∈ m, x.2 ≠ unwrittenByte

/-- The whole state: what the spec lists (10_state.md R46), the host's actions still to come (R24, entry 4), and the
model's own counter of host resets (entry 7). -/
structure State where
  /-- The implementation parameters, which no step changes (10_state.md R42). -/
  params : Params
  /-- The host's issue sequence still to come (10_state.md R24, 70_reset_and_hazards.md R173). -/
  hostQueue : List HostAction
  /-- `CMD`: the word of the command that runs, nothing between commands (10_state.md R21). -/
  cmd : Option U32
  /-- `A0` (10_state.md R22). -/
  a0 : U64
  /-- `A1` (10_state.md R22). -/
  a1 : U64
  /-- `A2` (10_state.md R22). -/
  a2 : U64
  /-- `R0` (10_state.md R23). -/
  r0 : U64
  /-- `STATUS` (10_state.md R25). -/
  status : Status
  /-- `EVENTS` (10_state.md R28). -/
  events : EventBits
  /-- `IRQ_EN` (10_state.md R29). -/
  irqEn : EventBits
  /-- `RX_DST` (10_state.md R39). -/
  rxDst : U32
  /-- `(IV_E, MASK_E)` (10_state.md R30). -/
  enc : RollingIv
  /-- `(IV_D, MASK_D)` (10_state.md R30). -/
  dec : RollingIv
  /-- `HDRBUF` (10_state.md R37). -/
  hdrBuf : BoundedBuffer
  /-- `PAYBUF` (10_state.md R38). -/
  payBuf : BoundedBuffer
  /-- RSTART, REND, RPOS (10_state.md R40). -/
  rd : Window
  /-- WSTART, WEND, WPOS (10_state.md R41). -/
  wr : Window
  /-- XMEM (20_memory.md R47). -/
  xmem : Memory
  /-- The model's own field: host resets so far, which selects the free values of the next one (entry 7). -/
  resets : Nat
deriving DecidableEq, Repr

/-- Why the machine stops with a fault. No command raises one: a command that cannot run as asked ends with a
completion code (60_exceptions.md R152). -/
inductive Fault where
  /-- Raised by `step` on a host access to an XMEM range that does not lie below `XMEM_SIZE`: no such address exists
  (20_memory.md R47, 70_reset_and_hazards.md R172). Safe: the model stops (entry 6). -/
  | xmemAddressAbsent
deriving DecidableEq, Repr

/-- Why the model gives no move. -/
inductive Refusal where
  /-- An instruction without a meaning in `exec`, by its mnemonic. Safe. Raised by no arm of this model. -/
  | notModelled (mnemonic : String)
  /-- Raised by `step` on a host action while `BUSY` = 1: "a model gives such an access no move"
  (70_reset_and_hazards.md R172, 93_implementation_defined.md U5). Safe, and no reachable state has `BUSY` = 1
  (entry 5). -/
  | hostAccessWhileBusy
deriving DecidableEq, Repr

/-- What a meaning and a step answer. -/
abbrev Outcome := Host.Outcome State Fault Refusal

/-- `STATUS` after reset (10_state.md R46). -/
def Status.reset : Status where
  cc := .ok
  ok := false
  v := false
  frame := false
  sess := .uninit
  rxst := .awaitingHeader
  closeReason := .notClosed
  busy := false

/-- `HDRBUF` = {cap = 4, free = 4}: after reset, SESS_INIT, close and each emitted frame (10_state.md R37). -/
def BoundedBuffer.emptyHeader : BoundedBuffer := ⟨4, 4, []⟩

/-- `PAYBUF` = {cap = 0, free = 0} while RXST = AwaitingHeader (10_state.md R38). -/
def BoundedBuffer.emptyPayload : BoundedBuffer := ⟨0, 0, []⟩

/-- The window `[0, 0)` (70_reset_and_hazards.md R161). -/
def Window.empty : Window := ⟨0, 0, 0⟩

/-- A RollingIv of zeros (10_state.md R33). -/
def RollingIv.zero : RollingIv := ⟨Bytes4.zero, 0⟩

/-- Both event bits 0. -/
def EventBits.none : EventBits := ⟨false, false⟩

/-- The machine right after reset (10_state.md R46, 70_reset_and_hazards.md R161), with the default parameters
(entry 1). A0, A1, A2 and R0 are unspecified there; 0 is the model's choice (DESIGN CHOICE, entry 2). -/
def State.reset : State where
  params := defaultParams
  hostQueue := []
  cmd := Option.none
  a0 := 0
  a1 := 0
  a2 := 0
  r0 := 0
  status := Status.reset
  events := EventBits.none
  irqEn := EventBits.none
  rxDst := 0
  enc := RollingIv.zero
  dec := RollingIv.zero
  hdrBuf := BoundedBuffer.emptyHeader
  payBuf := BoundedBuffer.emptyPayload
  rd := Window.empty
  wr := Window.empty
  xmem := []
  resets := 0

end Sys2Proof.Machine
end

