-- ==== Sys2Proof/Machine/Memory.lean ====
section
/-! DEFINITION. Reading and writing XMEM (00_scope.md R15, 20_memory.md R47, R51, R53). -/

namespace Sys2Proof.Machine

/-- The byte at address `a`. -/
def readByte : Memory → Nat → Byte
  | [], _ => unwrittenByte
  | (k, b) :: m, a => if k = a then b else readByte m a

/-- `XMEM[a..a+n)` as a byte sequence (00_scope.md R15). -/
def readBytes (m : Memory) (a : Nat) : Nat → List Byte
  | 0 => []
  | n + 1 => readByte m a :: readBytes m (a + 1) n

/-- The entries of the bytes `bs` from address `a` on; a byte equal to what an unlisted address reads as has none. -/
def cellsAt (a : Nat) : List Byte → Memory
  | [] => []
  | b :: bs => if b = unwrittenByte then cellsAt (a + 1) bs else (a, b) :: cellsAt (a + 1) bs

/-- `MemCopyIn(a, bs)`: XMEM[a + i] <- bs[i] for every i, every other byte unchanged (00_scope.md R15). -/
def writeBytes (m : Memory) (a : Nat) (bs : List Byte) : Memory :=
  m.filter (fun c => c.1 < a) ++ cellsAt a bs ++ m.filter (fun c => a + bs.length ≤ c.1)

/-- `MemRead(a, n)`: an n-byte little-endian value (00_scope.md R15, 20_memory.md R53). -/
def readLe (m : Memory) (a n : Nat) : Nat := leValue (readBytes m a n)

/-- `MemWrite(a, n, v)`: the n low bytes of `v`, little-endian (00_scope.md R15, 20_memory.md R53). -/
def writeLe (m : Memory) (a n v : Nat) : Memory := writeBytes m a (leBytes n v)

/-- The range `(a, n)` is legal: `a + n <= XMEM_SIZE`, on the exact sum (20_memory.md R51). -/
abbrev RangeLegal (p : Params) (a n : Nat) : Prop := a + n ≤ p.xmemSize

end Sys2Proof.Machine
end

