-- ==== Sys2Proof/Machine/Flags.lean ====
section
/-! DEFINITION. STATUS, EVENTS and IRQ_EN as software sees them, and the flags that commands write (10_state.md R25,
R28, R29). -/

namespace Sys2Proof.Machine

/-- The number of a completion code (60_exceptions.md R148). -/
def codeNumber : Code → BitVec 8
  | .ok => 0
  | .illegalCommand => 1
  | .boundsViolation => 2
  | .endOfStream => 3
  | .protocolViolation => 4
  | .sessionState => 5
  | .framePending => 6
  | .headerLength => 7
  | .writeOverflow => 8
  | .csrAccess => 9

/-- The value of `SESS` (10_state.md R25). -/
def sessionNumber : Session → BitVec 2
  | .uninit => 0
  | .opened => 1
  | .closed => 2

/-- The value of `RXST` (10_state.md R25). -/
def rxPhaseNumber : RxPhase → BitVec 1
  | .awaitingHeader => 0
  | .awaitingPayload => 1

/-- The value of `CLOSE_REASON` (10_state.md R25). -/
def closeReasonNumber : CloseReason → BitVec 2
  | .notClosed => 0
  | .hostClose => 1
  | .invalidHeader => 2
  | .zeroLength => 3

/-- `STATUS` as a 32-bit word: CC [7:0], OK [8], V [9], FRAME [10], SESS [12:11], RXST [13], CLOSE_REASON [15:14],
BUSY [16], the rest 0 (10_state.md R25). -/
def statusWord (t : Status) : U32 :=
  0#15 ++ BitVec.ofBool t.busy ++ closeReasonNumber t.closeReason ++ rxPhaseNumber t.rxst ++ sessionNumber t.sess ++
    BitVec.ofBool t.frame ++ BitVec.ofBool t.v ++ BitVec.ofBool t.ok ++ codeNumber t.cc

/-- `EVENTS` or `IRQ_EN` as a 32-bit word; bits [31:2] read as 0 (10_state.md R28, R29). -/
def eventWord (e : EventBits) : U32 := 0#30 ++ BitVec.ofBool e.closing ++ BitVec.ofBool e.frame

/-- The bits [1:0] of a written value (40_session_control.md R88). -/
def eventBitsOf (v : U64) : EventBits := ⟨v.getLsbD 0, v.getLsbD 1⟩

/-- Write one to clear: `EVENTS & ~v` on the two live bits (10_state.md R28, 40_session_control.md R88). -/
def clearEvents (e v : EventBits) : EventBits := ⟨e.frame && !v.frame, e.closing && !v.closing⟩

/-- The interrupt output, `(EVENTS & IRQ_EN) != 0` (10_state.md R29, 60_exceptions.md R151). -/
def irq (s : State) : Bool := (s.events.frame && s.irqEn.frame) || (s.events.closing && s.irqEn.closing)

/-- `STATUS.OK <- b` (10_state.md R25). -/
def setOk (b : Bool) (s : State) : State := { s with status := { s.status with ok := b } }

/-- `STATUS.V <- b` (10_state.md R25). -/
def setV (b : Bool) (s : State) : State := { s with status := { s.status with v := b } }

/-- `STATUS.FRAME <- b` (10_state.md R25). -/
def setFrame (b : Bool) (s : State) : State := { s with status := { s.status with frame := b } }

end Sys2Proof.Machine
end

