-- ==== Sys2Proof/Machine/Operands.lean ====
section
/-! DEFINITION. Every operand form: addresses and lengths, IVs and headers in registers, SESS_INIT's fields, the width
and side selectors (30_encoding.md R71 to R75, 40_session_control.md R85). -/

namespace Sys2Proof.Machine

/-- `A0[31:0]` as an address, a length or a count; bits [63:32] are ignored (10_state.md R22, 30_encoding.md R75). -/
def operand0 (s : State) : Nat := regField s.a0 31 0

/-- `A1[31:0]` as an address or a length (10_state.md R22, 30_encoding.md R75). -/
def operand1 (s : State) : Nat := regField s.a1 31 0

/-- `A2[31:0]` as an address (10_state.md R22, 30_encoding.md R75). -/
def operand2 (s : State) : Nat := regField s.a2 31 0

/-- `A0[31:0]` as a 4-byte sequence, byte k at bits [8k+7:8k] (20_memory.md R55). -/
def operandBytes0 (s : State) : Bytes4 := unpackBytes4 (s.a0.setWidth 32)

/-- `A1[31:0]` as a 4-byte sequence (20_memory.md R55). -/
def operandBytes1 (s : State) : Bytes4 := unpackBytes4 (s.a1.setWidth 32)

/-- `A2[15:0]`, SESS_INIT's protocol version (40_session_control.md R85). -/
def protocolVersion (s : State) : U16 := s.a2.setWidth 16

/-- `A2[16]`, the encrypt-side complement flag `ce` (40_session_control.md R85). -/
def complementEnc (s : State) : Bool := s.a2.getLsbD 16

/-- `A2[17]`, the decrypt-side complement flag `cd` (40_session_control.md R85). -/
def complementDec (s : State) : Bool := s.a2.getLsbD 17

/-- The width in bytes, 2^W (30_encoding.md R73). -/
def widthBytes : Width → Nat
  | .w1 => 1
  | .w2 => 2
  | .w4 => 4
  | .w8 => 8

/-- The value operand of WR_INT, `A0[8n-1:0]` for a width of n bytes (30_encoding.md R75). -/
def valueOperand (s : State) (n : Nat) : Nat := s.a0.toNat % 2 ^ (8 * n)

/-- The RollingIv that `D` selects (30_encoding.md R72). -/
def sideIv (s : State) : Side → RollingIv
  | .encrypt => s.enc
  | .decrypt => s.dec

/-- The state with the IV of one side replaced; its mask and the other side stay (10_state.md R30). -/
def setSideIv (side : Side) (iv : Bytes4) (s : State) : State :=
  match side with
  | .encrypt => { s with enc := { s.enc with iv := iv } }
  | .decrypt => { s with dec := { s.dec with iv := iv } }

end Sys2Proof.Machine
end

