-- ==== Sys2Proof/Machine/Ops.lean ====
section
/-! DEFINITION. The operations that commands share: ending a command (00_scope.md R16, 60_exceptions.md R147), the
result register, the BoundedBuffer (44_framer.md R119 to R121) and the close step (40_session_control.md R84). -/

namespace Sys2Proof.Machine

/-- The end of a command: `STATUS.CC <- c`, `BUSY` falls (10_state.md R27) and `CMD` keeps nothing (R21). -/
def finish (c : Code) (s : State) : State :=
  { s with cmd := none, status := { s.status with cc := c, busy := false } }

/-- `complete`: the command's listed effects stand and `STATUS.CC <- OK` (00_scope.md R16, 60_exceptions.md R147). -/
def complete (s : State) : Outcome := .next (finish .ok s)

/-- `raise c`: this machine's only exception mechanism. The command ends with the code and with no other effect than
those already made in `s`; there is no trap entry, no saved state and no handler (00_scope.md R16, 60_exceptions.md
R147, R152). -/
def raise (c : Code) (s : State) : Outcome := .next (finish c s)

/-- `R0 <- v` (10_state.md R23). -/
def setR0 (v : U64) (s : State) : State := { s with r0 := v }

/-- `STATUS.SESS = OPEN`, what the cipher commands need (10_state.md R35). -/
abbrev SessionOpen (s : State) : Prop := s.status.sess = .opened

/-- `appendFill(buf, src, off, cnt)`: the buffer after copying `k = min(free, cnt)` bytes of `src` from `off` on, and
`k` (44_framer.md R119). -/
def appendFill (buf : BoundedBuffer) (src : List Byte) (off cnt : Nat) : BoundedBuffer × Nat :=
  let k := min buf.free cnt
  ({ buf with free := buf.free - k, written := buf.written ++ (src.drop off).take k }, k)

/-- `reset(buf, c)` for c >= 1: a fresh buffer of capacity `c` (44_framer.md R120). -/
def resetBuffer (c : Nat) : BoundedBuffer := ⟨c, c, []⟩

/-- `extractAndReset(buf, c)`: exactly the written prefix, and the buffer reset to capacity `c` (44_framer.md R121,
90_conflicts.md C1). -/
def extractAndReset (buf : BoundedBuffer) (c : Nat) : List Byte × BoundedBuffer := (buf.written, resetBuffer c)

/-- `close(reason)`: only the OPEN-to-CLOSED step does anything (40_session_control.md R84). -/
def closeSession (reason : CloseReason) (s : State) : State :=
  if SessionOpen s then
    { s with
      status := { s.status with sess := .closed, closeReason := reason, rxst := .awaitingHeader }
      events := { s.events with closing := true }
      enc := RollingIv.zero
      dec := RollingIv.zero
      hdrBuf := BoundedBuffer.emptyHeader
      payBuf := BoundedBuffer.emptyPayload }
  else s

end Sys2Proof.Machine
end

