-- ==== Sys2Proof/Machine/Shuffle.lean ====
section
/-! DEFINITION. ShuffleStep (42_shuffle.md R98 to R102) and the command SHUFFLE (R103). -/

namespace Sys2Proof.Machine

/-- `T[x]`, with T = `SHUFFLE_TABLE` (42_shuffle.md R99, R100). -/
def tableAt (p : Params) (x : Byte) : Byte := p.shuffleTable.getD x.toNat 0

/-- One pass of the loop for the IV byte `x`: the four updates in order, then the little-endian merge, the rotation by
3 and the split (42_shuffle.md R99). -/
def shufflePass (p : Params) (k : Bytes4) (x : Byte) : Bytes4 :=
  let t := tableAt p x
  let k0 := k.b0 + (tableAt p k.b1 - x)
  let k1 := k.b1 - (k.b2 ^^^ t)
  let k2 := k.b2 ^^^ (tableAt p k.b3 + x)
  let k3 := k.b3 + (t - k0)
  unpackBytes4 (rotl32 (packBytes4 ⟨k0, k1, k2, k3⟩) 3)

/-- `shuffle(iv)`: four passes over the IV bytes from the seed (42_shuffle.md R99). -/
def shuffleStep (p : Params) (iv : Bytes4) : Bytes4 := iv.toList.foldl (shufflePass p) p.shuffleSeed

/-- SHUFFLE (42_shuffle.md R103). -/
def execShuffle (s : State) : Outcome :=
  complete (setR0 ((packBytes4 (shuffleStep s.params (operandBytes0 s))).setWidth 64) s)

end Sys2Proof.Machine
end

