-- ==== Sys2Proof/Machine/RollingIv.lean ====
section
/-! DEFINITION. The rolling IV (43_rolling_iv.md): version mask, keystream transform, headers, and the commands
KS_XFORM, HDR_BUILD and HDR_CHECK. -/

namespace Sys2Proof.Machine

/-- `versionMask(ver, c)` (43_rolling_iv.md R104). -/
def versionMask (ver : U16) (c : Bool) : U16 := swap16 ver ^^^ (if c then 0xFFFF else 0)

/-- The bytes of one segment XORed with its keystream, from segment offset `j` on: if `j mod 16 = 0` then B <- AES(B),
and the keystream byte is `B[j mod 16]` (43_rolling_iv.md R109). -/
def xorSegment (keys : List Block) (b : Block) (j : Nat) : List Byte → List Byte
  | [] => []
  | x :: xs =>
    let b' := if j % 16 = 0 then aesWith keys b else b
    (x ^^^ blockByte b' (j % 16)) :: xorSegment keys b' (j + 1) xs

/-- The segments of a transform: the next one is `seg` bytes long and every later one `blockLen`; each starts again
from `tile4(iv)` at offset 0. At most `fuel` segments; a transform's own call has one for each byte, which is enough
since every segment but the last consumes a byte (43_rolling_iv.md R110, R111). -/
def xorSegments (keys : List Block) (iv : Bytes4) (blockLen : Nat) : Nat → Nat → List Byte → List Byte
  | 0, _, ds => ds
  | _ + 1, _, [] => []
  | fuel + 1, seg, d :: ds =>
    xorSegment keys (tile4 iv) 0 ((d :: ds).take seg) ++
      xorSegments keys iv blockLen fuel blockLen ((d :: ds).drop seg)

/-- `transform(data, iv)`: the data XORed with the keystream, and the next IV (43_rolling_iv.md R111). -/
def ivTransform (p : Params) (data : List Byte) (iv : Bytes4) : List Byte × Bytes4 :=
  (xorSegments (roundKeys p.aesKey) iv p.blockLen data.length (p.blockLen - 4) data, shuffleStep p iv)

/-- `constructHeader(L, iv, mask)` (43_rolling_iv.md R113). -/
def constructHeader (len : U16) (iv : Bytes4) (mask : U16) : Bytes4 :=
  let ev := be16 iv.b2 iv.b3 ^^^ mask
  let el := ev ^^^ swap16 len
  ⟨hiByte ev, loByte ev, hiByte el, loByte el⟩

/-- `validateHeader(h, iv, mask)` (43_rolling_iv.md R114). -/
def validateHeader (h iv : Bytes4) (mask : U16) : Option U16 :=
  let ev := be16 h.b0 h.b1
  if ev ^^^ be16 iv.b2 iv.b3 = mask then some (swap16 (ev ^^^ be16 h.b2 h.b3)) else none

/-- A header may be built for a length `L` with 2 <= L <= 0xFFFF (43_rolling_iv.md R113). -/
abbrev HeaderLengthLegal (n : Nat) : Prop := 2 ≤ n ∧ n ≤ 0xFFFF

/-- KS_XFORM (43_rolling_iv.md R116). -/
def execKsXform (side : Side) (s : State) : Outcome :=
  if ¬ SessionOpen s then raise .sessionState s
  else if ¬ RangeLegal s.params (operand0 s) (operand1 s) then raise .boundsViolation s
  else
    let r := ivTransform s.params (readBytes s.xmem (operand0 s) (operand1 s)) (sideIv s side).iv
    complete (setSideIv side r.2 { s with xmem := writeBytes s.xmem (operand0 s) r.1 })

/-- HDR_BUILD (43_rolling_iv.md R117). -/
def execHdrBuild (s : State) : Outcome :=
  if ¬ SessionOpen s then raise .sessionState s
  else if ¬ HeaderLengthLegal (operand0 s) then raise .headerLength s
  else
    complete (setR0 ((packBytes4 (constructHeader (BitVec.ofNat 16 (operand0 s)) s.enc.iv s.enc.mask)).setWidth 64) s)

/-- HDR_CHECK (43_rolling_iv.md R118). -/
def execHdrCheck (s : State) : Outcome :=
  if ¬ SessionOpen s then raise .sessionState s
  else match validateHeader (operandBytes0 s) s.dec.iv s.dec.mask with
    | none => complete (setV false (setR0 0 s))
    | some len => complete (setV true (setR0 (len.setWidth 64) s))

end Sys2Proof.Machine
end

