-- ==== Sys2Proof/Machine/Control.lean ====
section
/-! DEFINITION. The CSR map (10_state.md R44) and the session and control commands (40_session_control.md). -/

namespace Sys2Proof.Machine

/-- The CSRs of 10_state.md R44. -/
inductive Csr where
  | status
  | events
  | irqEn
  | rxDst
  | ivE
  | maskE
  | ivD
  | maskD
  | rStart
  | rEnd
  | rPos
  | wStart
  | wEnd
  | wPos
  | hdrFree
  | payCap
  | payFree
  | xmemSize
  | blockLen
deriving DecidableEq, Repr

/-- The CSR of a number; every other number is reserved (10_state.md R44). -/
def csrOfNumber : Nat → Option Csr
  | 0x000 => some .status
  | 0x001 => some .events
  | 0x002 => some .irqEn
  | 0x003 => some .rxDst
  | 0x010 => some .ivE
  | 0x011 => some .maskE
  | 0x012 => some .ivD
  | 0x013 => some .maskD
  | 0x020 => some .rStart
  | 0x021 => some .rEnd
  | 0x022 => some .rPos
  | 0x028 => some .wStart
  | 0x029 => some .wEnd
  | 0x02A => some .wPos
  | 0x030 => some .hdrFree
  | 0x031 => some .payCap
  | 0x032 => some .payFree
  | 0x0F0 => some .xmemSize
  | 0x0F1 => some .blockLen
  | _ => none

/-- A 32-bit view zero-extended into R0 (20_memory.md R58). -/
def csrView (v : U32) : U64 := v.setWidth 64

/-- `v[n-1:0]`, zero-extended: a CSR field at bits [n-1:0] (10_state.md R44). -/
def csrField (v n : Nat) : U64 := BitVec.ofNat 64 (v % 2 ^ n)

/-- `BLOCK_LEN_CSR`: the parameter, where "a value of 2^32 reads as 0x1_0000_0000" (10_state.md R43). R44 gives it 32
bits, and what they show of a larger parameter is a free value (entry 8). -/
def blockLenView (v : Nat) : U64 := if v ≤ 2 ^ 32 then BitVec.ofNat 64 v else csrView (Config.wideValue v)

/-- The value of a CSR in a state, zero-extended to 64 bits (10_state.md R33, R43, R44, 20_memory.md R58). `STATUS`
reads as it was before the command that reads it, so with `BUSY` = 0 (10_state.md R27, 40_session_control.md R87). -/
def csrValue (s : State) : Csr → U64
  | .status => csrView (statusWord { s.status with busy := false })
  | .events => csrView (eventWord s.events)
  | .irqEn => csrView (eventWord s.irqEn)
  | .rxDst => csrView s.rxDst
  | .ivE => csrView (packBytes4 s.enc.iv)
  | .maskE => csrView (s.enc.mask.setWidth 32)
  | .ivD => csrView (packBytes4 s.dec.iv)
  | .maskD => csrView (s.dec.mask.setWidth 32)
  | .rStart => csrView (u32View s.rd.start)
  | .rEnd => csrView (u32View s.rd.stop)
  | .rPos => csrView (u32View s.rd.pos)
  | .wStart => csrView (u32View s.wr.start)
  | .wEnd => csrView (u32View s.wr.stop)
  | .wPos => csrView (u32View s.wr.pos)
  | .hdrFree => csrField s.hdrBuf.free 3
  | .payCap => csrField s.payBuf.cap 17
  | .payFree => csrField s.payBuf.free 17
  | .xmemSize => BitVec.ofNat 64 s.params.xmemSize
  | .blockLen => blockLenView s.params.blockLen

/-- SESS_INIT (40_session_control.md R85). -/
def execSessInit (s : State) : Outcome :=
  if SessionOpen s then raise .sessionState s
  else if operand0 s = 0 ∨ operand1 s = 0 then raise .boundsViolation s
  else complete
    { s with
      enc := ⟨operandBytes0 s, versionMask (protocolVersion s) (complementEnc s)⟩
      dec := ⟨operandBytes1 s, versionMask (protocolVersion s) (complementDec s)⟩
      status := { s.status with
        sess := .opened, rxst := .awaitingHeader, closeReason := .notClosed, frame := false, v := false }
      hdrBuf := BoundedBuffer.emptyHeader
      payBuf := BoundedBuffer.emptyPayload }

/-- SESS_CLOSE (40_session_control.md R86). -/
def execSessClose (s : State) : Outcome := complete (closeSession .hostClose s)

/-- CSR_READ (40_session_control.md R87). -/
def execCsrRead (csr : Nat) (s : State) : Outcome :=
  match csrOfNumber csr with
  | none => raise .csrAccess s
  | some c => complete (setR0 (csrValue s c) s)

/-- `RX_DST <- v`, accepted only if v + 65535 <= XMEM_SIZE (10_state.md R39, 40_session_control.md R88). -/
def writeRxDst (s : State) : Outcome :=
  if RangeLegal s.params (operand0 s) 65535 then complete { s with rxDst := BitVec.ofNat 32 (operand0 s) }
  else raise .boundsViolation s

/-- CSR_WRITE (40_session_control.md R88): only EVENTS, IRQ_EN and RX_DST are not read-only (10_state.md R44). -/
def execCsrWrite (csr : Nat) (s : State) : Outcome :=
  match csrOfNumber csr with
  | none => raise .csrAccess s
  | some .events => complete { s with events := clearEvents s.events (eventBitsOf s.a0) }
  | some .irqEn => complete { s with irqEn := eventBitsOf s.a0 }
  | some .rxDst => writeRxDst s
  | some .status | some .ivE | some .maskE | some .ivD | some .maskD => raise .csrAccess s
  | some .rStart | some .rEnd | some .rPos | some .wStart | some .wEnd | some .wPos => raise .csrAccess s
  | some .hdrFree | some .payCap | some .payFree | some .xmemSize | some .blockLen => raise .csrAccess s

end Sys2Proof.Machine
end

