-- ==== Sys2Proof/Machine/Transposition.lean ====
section
/-! DEFINITION. The byte-transposition cipher (41_transposition.md): the rounds, the two functions, TP_ENC and TP_DEC.
All byte arithmetic is modulo 256 (00_scope.md R11). -/

namespace Sys2Proof.Machine

/-- The loop of `evenRound`, with `remember` and `lb` (41_transposition.md R89). -/
def evenLoop (remember lb : Byte) : List Byte → List Byte
  | [] => []
  | b :: bs =>
    let c := (rotl8 b 3 + lb) ^^^ remember
    (~~~ (rotr8 c (lb.toNat % 8)) + 0x48) :: evenLoop c (lb - 1) bs

/-- The loop of `oddRound`, over the sequence in the round's own order (41_transposition.md R90). -/
def oddLoop (remember lb : Byte) : List Byte → List Byte
  | [] => []
  | b :: bs =>
    let c := (rotl8 b 4 + lb) ^^^ remember
    rotr8 (c ^^^ 0x13) 3 :: oddLoop c (lb - 1) bs

/-- The loop of `evenRoundInv` (41_transposition.md R91). -/
def evenLoopInv (remember lb : Byte) : List Byte → List Byte
  | [] => []
  | b :: bs =>
    let c := rotl8 (~~~ (b - 0x48)) (lb.toNat % 8)
    rotr8 ((c ^^^ remember) - lb) 3 :: evenLoopInv c (lb - 1) bs

/-- The loop of `oddRoundInv`, over the sequence in the round's own order (41_transposition.md R92). -/
def oddLoopInv (remember lb : Byte) : List Byte → List Byte
  | [] => []
  | b :: bs =>
    let c := rotl8 b 3 ^^^ 0x13
    rotr8 ((c ^^^ remember) - lb) 4 :: oddLoopInv c (lb - 1) bs

/-- `evenRound(d)`: ascending index order, `remember` = 0 and `lb` = n mod 256 at its start (41_transposition.md R89). -/
def evenRound (d : List Byte) : List Byte := evenLoop 0 (BitVec.ofNat 8 d.length) d

/-- `oddRound(d)`: descending index order (41_transposition.md R90). -/
def oddRound (d : List Byte) : List Byte := (oddLoop 0 (BitVec.ofNat 8 d.length) d.reverse).reverse

/-- `evenRoundInv(d)` (41_transposition.md R91). -/
def evenRoundInv (d : List Byte) : List Byte := evenLoopInv 0 (BitVec.ofNat 8 d.length) d

/-- `oddRoundInv(d)` (41_transposition.md R92). -/
def oddRoundInv (d : List Byte) : List Byte := (oddLoopInv 0 (BitVec.ofNat 8 d.length) d.reverse).reverse

/-- `tpEncrypt(d)`: even, odd, even, odd, even, odd (41_transposition.md R93). -/
def tpEncrypt (d : List Byte) : List Byte := oddRound (evenRound (oddRound (evenRound (oddRound (evenRound d)))))

/-- `tpDecrypt(d)`: the inverse rounds in reversed round order (41_transposition.md R94). -/
def tpDecrypt (d : List Byte) : List Byte :=
  evenRoundInv (oddRoundInv (evenRoundInv (oddRoundInv (evenRoundInv (oddRoundInv d)))))

/-- What TP_ENC and TP_DEC share: a function of the bytes of an XMEM range, in place (41_transposition.md R96, R97). -/
def transformRange (f : List Byte → List Byte) (s : State) : Outcome :=
  if RangeLegal s.params (operand0 s) (operand1 s) then
    complete { s with xmem := writeBytes s.xmem (operand0 s) (f (readBytes s.xmem (operand0 s) (operand1 s))) }
  else raise .boundsViolation s

/-- TP_ENC (41_transposition.md R96). -/
def execTpEnc (s : State) : Outcome := transformRange tpEncrypt s

/-- TP_DEC (41_transposition.md R97). -/
def execTpDec (s : State) : Outcome := transformRange tpDecrypt s

end Sys2Proof.Machine
end

