-- ==== Sys2Proof/Machine/Framer.lean ====
section
/-! DEFINITION. The packet framer (44_framer.md): pack, unpack, TX_PACK, the reassembler of RX_FEED, RX_RELEASE. -/

namespace Sys2Proof.Machine

/-- `pack(p, ivE, maskE)`: the frame and the next encrypt IV (44_framer.md R123). -/
def packFrame (p : Params) (payload : List Byte) (r : RollingIv) : List Byte × Bytes4 :=
  let t := ivTransform p (tpEncrypt payload) r.iv
  ((constructHeader (BitVec.ofNat 16 payload.length) r.iv r.mask).toList ++ t.1, t.2)

/-- `unpack(c, ivD)`: the plaintext and the next decrypt IV (44_framer.md R124). -/
def unpackFrame (p : Params) (c : List Byte) (iv : Bytes4) : List Byte × Bytes4 :=
  let t := ivTransform p c iv
  (tpDecrypt t.1, t.2)

/-- TX_PACK (44_framer.md R126). -/
def execTxPack (s : State) : Outcome :=
  let n := operand1 s
  if ¬ SessionOpen s then raise .sessionState s
  else if ¬ (RangeLegal s.params (operand0 s) n ∧ RangeLegal s.params (operand2 s) (n + 4)) then
    raise .boundsViolation s
  else if ¬ HeaderLengthLegal n then raise .headerLength s
  else
    let f := packFrame s.params (readBytes s.xmem (operand0 s) n) s.enc
    complete (setR0 (BitVec.ofNat 64 (n + 4))
      (setSideIv .encrypt f.2 { s with xmem := writeBytes s.xmem (operand2 s) f.1 }))

/-- `HDRBUF.storage` as the 4 header bytes, once the buffer is full (44_framer.md R128). -/
def headerBytes (b : BoundedBuffer) : Bytes4 :=
  ⟨b.written.getD 0 0, b.written.getD 1 0, b.written.getD 2 0, b.written.getD 3 0⟩

/-- `emit()`: decrypt the payload buffer to `RX_DST` and hand the frame over (44_framer.md R129). Of `extractAndReset` only
the prefix is used: PAYBUF is left empty, which is no result of `reset` (10_state.md R38). -/
def emitFrame (s : State) : State :=
  let c := (extractAndReset s.payBuf s.payBuf.cap).1
  let u := unpackFrame s.params c s.dec.iv
  { s with
    dec := { s.dec with iv := u.2 }
    xmem := writeBytes s.xmem s.rxDst.toNat u.1
    rd := ⟨s.rxDst.toNat, s.rxDst.toNat + c.length, s.rxDst.toNat⟩
    status := { s.status with frame := true, rxst := .awaitingHeader }
    events := { s.events with frame := true }
    hdrBuf := BoundedBuffer.emptyHeader
    payBuf := BoundedBuffer.emptyPayload }

/-- `R0 <- zext_64(p); complete`, how RX_FEED ends (44_framer.md R130). -/
def feedDone (p : Nat) (s : State) : Outcome := complete (setR0 (BitVec.ofNat 64 p) s)

/-- A protocol violation: the session closes, RX_FEED raises and R0 stays (44_framer.md R128, R130). -/
def feedViolation (reason : CloseReason) (s : State) : Outcome := raise .protocolViolation (closeSession reason s)

/-- The loop of RX_FEED over `chunk` from index `p` on, at most `passes` passes (44_framer.md R128, R130). -/
def feedLoop (chunk : List Byte) : Nat → Nat → State → Outcome
  | 0, p, s => feedDone p s
  | passes + 1, p, s =>
    if s.status.rxst = .awaitingPayload ∧ s.payBuf.free = 0 then feedDone p (emitFrame s)
    else if p = chunk.length then feedDone p s
    else match s.status.rxst with
      | .awaitingHeader =>
        let a := appendFill s.hdrBuf chunk p (chunk.length - p)
        let s' := { s with hdrBuf := a.1 }
        if 0 < a.1.free then feedDone (p + a.2) s'
        else match validateHeader (headerBytes a.1) s.dec.iv s.dec.mask with
          | none => feedViolation .invalidHeader s'
          | some len =>
            if len = 0 then feedViolation .zeroLength s'
            else feedLoop chunk passes (p + a.2)
              { s' with payBuf := resetBuffer len.toNat, status := { s.status with rxst := .awaitingPayload } }
      | .awaitingPayload =>
        let a := appendFill s.payBuf chunk p (chunk.length - p)
        feedLoop chunk passes (p + a.2) { s with payBuf := a.1 }

/-- RX_FEED (44_framer.md R130). Three passes are enough for every chunk: one may complete the header, one fills the
payload, and then the payload is full or the chunk is used up (entry 10). -/
def execRxFeed (s : State) : Outcome :=
  if ¬ SessionOpen s then raise .sessionState s
  else if s.status.frame then raise .framePending s
  else if ¬ RangeLegal s.params (operand0 s) (operand1 s) then raise .boundsViolation s
  else feedLoop (readBytes s.xmem (operand0 s) (operand1 s)) 3 0 s

/-- RX_RELEASE (44_framer.md R131). -/
def execRxRelease (s : State) : Outcome := complete (setFrame false { s with rd := Window.empty })

end Sys2Proof.Machine
end

