-- ==== Sys2Proof/Machine/Reader.lean ====
section
/-! DEFINITION. The reader half of the codec (45_codec.md R133 to R138). A string result is the descriptor
`(L << 32) | addr` of bytes in XMEM. -/

namespace Sys2Proof.Machine

/-- A read of `k` bytes does not underrun: the bytes lie in `[RPOS, REND)` (45_codec.md R134, 20_memory.md R52). -/
abbrev ReadFits (s : State) (k : Nat) : Prop := s.rd.pos + k ≤ s.rd.stop

/-- `underrun`: `STATUS.OK <- 0` and the cursor stays. A safe read gives `R0 <- 0` and completes, an unsafe one raises
END_OF_STREAM and leaves R0 (45_codec.md R134). -/
def underrun (safe : Bool) (s : State) : Outcome :=
  if safe then complete (setOk false (setR0 0 s)) else raise .endOfStream (setOk false s)

/-- The end of a read that does not underrun: `R0 <- v`, the cursor moves by `k`, `STATUS.OK <- 1`
(45_codec.md R134). -/
def readDone (v : U64) (k : Nat) (s : State) : Outcome :=
  complete (setOk true (setR0 v { s with rd := { s.rd with pos := s.rd.pos + k } }))

/-- RD_WIN (45_codec.md R133). -/
def execRdWin (s : State) : Outcome :=
  if RangeLegal s.params (operand0 s) (operand1 s) then
    complete { s with rd := ⟨operand0 s, operand0 s + operand1 s, operand0 s⟩ }
  else raise .boundsViolation s

/-- RD_INT (45_codec.md R135). -/
def execRdInt (safe : Bool) (width : Width) (s : State) : Outcome :=
  if ReadFits s (widthBytes width) then
    readDone (BitVec.ofNat 64 (readLe s.xmem s.rd.pos (widthBytes width))) (widthBytes width) s
  else underrun safe s

/-- The length prefix at the cursor, a little-endian u16 (45_codec.md R136, 20_memory.md R53). -/
def lengthPrefix (s : State) : Nat := readLe s.xmem s.rd.pos 2

/-- RD_LSTR (45_codec.md R136): prefix and content are one read. -/
def execRdLstr (safe : Bool) (s : State) : Outcome :=
  if ¬ ReadFits s 2 then underrun safe s
  else if ¬ ReadFits s (2 + lengthPrefix s) then underrun safe s
  else readDone (descriptor (lengthPrefix s) (s.rd.pos + 2)) (2 + lengthPrefix s) s

/-- The least `j` in `[0, N-1)` with `XMEM[RPOS + j] = 0`, or N - 1 if there is none (45_codec.md R137). -/
def paddedLength (s : State) (n : Nat) : Nat :=
  ((readBytes s.xmem s.rd.pos (n - 1)).takeWhile (fun b => b != 0)).length

/-- RD_PSTR (45_codec.md R137): the cursor always moves the full N bytes. -/
def execRdPstr (safe : Bool) (n : Nat) (s : State) : Outcome :=
  if n = 0 then raise .boundsViolation s
  else if ¬ ReadFits s n then underrun safe s
  else readDone (descriptor (paddedLength s n) s.rd.pos) n s

/-- RD_FULLY (45_codec.md R138): never an underrun. -/
def execRdFully (s : State) : Outcome :=
  complete (setOk true (setR0 (descriptor (s.rd.stop - s.rd.pos) s.rd.pos)
    { s with rd := { s.rd with pos := s.rd.stop } }))

end Sys2Proof.Machine
end

