-- ==== Sys2Proof/Machine/Writer.lean ====
section
/-! DEFINITION. The writer half of the codec (45_codec.md R139 to R144). -/

namespace Sys2Proof.Machine

/-- A write of `k` bytes does not overflow: it fits in `[WPOS, WEND)` (45_codec.md R140, 20_memory.md R52). -/
abbrev WriteFits (s : State) (k : Nat) : Prop := s.wr.pos + k ≤ s.wr.stop

/-- A write of the bytes `bs` at the cursor: WRITE_OVERFLOW and no effect if they do not fit, otherwise the cursor
moves past them and `R0 <- zext_64(WPOS - WSTART)` (45_codec.md R140). -/
def writeField (bs : List Byte) (s : State) : Outcome :=
  if WriteFits s bs.length then
    complete (setR0 (BitVec.ofNat 64 (s.wr.pos + bs.length - s.wr.start))
      { s with xmem := writeBytes s.xmem s.wr.pos bs, wr := { s.wr with pos := s.wr.pos + bs.length } })
  else raise .writeOverflow s

/-- WR_WIN (45_codec.md R139). -/
def execWrWin (s : State) : Outcome :=
  if RangeLegal s.params (operand0 s) (operand1 s) then
    complete { s with wr := ⟨operand0 s, operand0 s + operand1 s, operand0 s⟩ }
  else raise .boundsViolation s

/-- WR_INT (45_codec.md R141). -/
def execWrInt (width : Width) (s : State) : Outcome :=
  writeField (leBytes (widthBytes width) (valueOperand s (widthBytes width))) s

/-- WR_LSTR (45_codec.md R142): a u16 length and the content. -/
def execWrLstr (s : State) : Outcome :=
  if ¬ (operand1 s ≤ 0xFFFF ∧ RangeLegal s.params (operand0 s) (operand1 s)) then raise .boundsViolation s
  else writeField (leBytes 2 (operand1 s) ++ readBytes s.xmem (operand0 s) (operand1 s)) s

/-- WR_PSTR (45_codec.md R143): the content, its terminator and zero padding up to N bytes. -/
def execWrPstr (n : Nat) (s : State) : Outcome :=
  if n = 0 ∨ n - 1 < operand1 s ∨ ¬ RangeLegal s.params (operand0 s) (operand1 s) then raise .boundsViolation s
  else writeField (readBytes s.xmem (operand0 s) (operand1 s) ++ List.replicate (n - operand1 s) 0) s

/-- WR_BYTES (45_codec.md R144). -/
def execWrBytes (s : State) : Outcome :=
  if ¬ RangeLegal s.params (operand0 s) (operand1 s) then raise .boundsViolation s
  else writeField (readBytes s.xmem (operand0 s) (operand1 s)) s

end Sys2Proof.Machine
end

