-- ==== Sys2Proof/Machine/Dispatch.lean ====
section
/-! DEFINITION. One arm per command: its meaning (30_encoding.md R76). -/

namespace Sys2Proof.Machine

def exec (i : Instr) (s : State) : Host.Outcome State Fault Refusal :=
  match i with
  | .sessInit => Sys2Proof.Machine.execSessInit s
  | .sessClose => Sys2Proof.Machine.execSessClose s
  | .csrRead csr => Sys2Proof.Machine.execCsrRead csr s
  | .csrWrite csr => Sys2Proof.Machine.execCsrWrite csr s
  | .tpEnc => Sys2Proof.Machine.execTpEnc s
  | .tpDec => Sys2Proof.Machine.execTpDec s
  | .shuffle => Sys2Proof.Machine.execShuffle s
  | .ksXform side => Sys2Proof.Machine.execKsXform side s
  | .hdrBuild => Sys2Proof.Machine.execHdrBuild s
  | .hdrCheck => Sys2Proof.Machine.execHdrCheck s
  | .txPack => Sys2Proof.Machine.execTxPack s
  | .rxFeed => Sys2Proof.Machine.execRxFeed s
  | .rxRelease => Sys2Proof.Machine.execRxRelease s
  | .rdWin => Sys2Proof.Machine.execRdWin s
  | .rdInt safe width => Sys2Proof.Machine.execRdInt safe width s
  | .rdLstr safe => Sys2Proof.Machine.execRdLstr safe s
  | .rdPstr safe n => Sys2Proof.Machine.execRdPstr safe n s
  | .rdFully => Sys2Proof.Machine.execRdFully s
  | .wrWin => Sys2Proof.Machine.execWrWin s
  | .wrInt width => Sys2Proof.Machine.execWrInt width s
  | .wrLstr => Sys2Proof.Machine.execWrLstr s
  | .wrPstr n => Sys2Proof.Machine.execWrPstr n s
  | .wrBytes => Sys2Proof.Machine.execWrBytes s

end Sys2Proof.Machine
end

