-- ==== Sys2Proof/Machine/HostPort.lean ====
section
/-! DEFINITION. The host's side of the block: what each action of 70_reset_and_hazards.md R172 does and gives back. -/

namespace Sys2Proof.Machine

/-- A host write of an operand register (10_state.md R22). -/
def writeOperandReg (k : OperandReg) (v : U64) (s : State) : State :=
  match k with
  | .a0 => { s with a0 := v }
  | .a1 => { s with a1 := v }
  | .a2 => { s with a2 := v }

/-- A host write of `CMD`: the word is held and `BUSY` rises until the command completes (10_state.md R21, R27). -/
def latchCmd (w : U32) (s : State) : State := { s with cmd := some w, status := { s.status with busy := true } }

/-- The command in `CMD` runs: one atomic step (10_state.md R27). A word that is no command ends with ILLEGAL_COMMAND
before every other check and with no other effect (30_encoding.md R78, 60_exceptions.md R149). -/
def runCommand (s : State) : Outcome :=
  match s.cmd with
  | none => .next s
  | some w => match decodeWord w with
    | .ok i => exec i s
    | .error _ => raise .illegalCommand s

/-- The host's reset (70_reset_and_hazards.md R161): every piece of state takes the value of 10_state.md R46. What R46
leaves unspecified is a free value, drawn anew at each reset (entry 7); the parameters and the host's own sequence are
not the block's to reset. -/
def hostReset (s : State) : State :=
  { State.reset with
    params := s.params
    hostQueue := s.hostQueue
    a0 := Config.resetRegister s.resets 0
    a1 := Config.resetRegister s.resets 1
    a2 := Config.resetRegister s.resets 2
    r0 := Config.resetRegister s.resets 3
    xmem := writeBytes [] 0 ((Config.resetXmem s.resets).take s.params.xmemSize)
    resets := s.resets + 1 }

/-- The effect of one host action (70_reset_and_hazards.md R172). A write of R0 has none (10_state.md R23), and neither
has a read. -/
def hostAct (a : HostAction) (s : State) : Outcome :=
  match a with
  | .writeOperand k v => .next (writeOperandReg k v s)
  | .writeResult _ => .next s
  | .writeCmd w => runCommand (latchCmd w s)
  | .writeXmem addr bytes =>
    if RangeLegal s.params addr bytes.length then .next { s with xmem := writeBytes s.xmem addr bytes }
    else .fault .xmemAddressAbsent
  | .readOperand _ => .next s
  | .readResult => .next s
  | .readXmem addr n => if RangeLegal s.params addr n then .next s else .fault .xmemAddressAbsent
  | .observeIrq => .next s
  | .reset => .next (hostReset s)

/-- What a host action gives back (70_reset_and_hazards.md R172, its last column). -/
inductive HostSees where
  | nothing
  | register (v : U64)
  | bytes (bs : List Byte)
  | irq (level : Bool)
deriving DecidableEq, Repr

/-- The value an operand register holds (10_state.md R22). -/
def operandReg (k : OperandReg) (s : State) : U64 :=
  match k with
  | .a0 => s.a0
  | .a1 => s.a1
  | .a2 => s.a2

/-- What the host gets back from an action taken in the state `s` (70_reset_and_hazards.md R172). -/
def hostSees (a : HostAction) (s : State) : HostSees :=
  match a with
  | .readOperand k => .register (operandReg k s)
  | .readResult => .register s.r0
  | .readXmem addr n => .bytes (readBytes s.xmem addr n)
  | .observeIrq => .irq (irq s)
  | .writeOperand _ _ | .writeResult _ | .writeCmd _ | .writeXmem _ _ | .reset => .nothing

/-- The state in which the next step writes the given word to `CMD`, and nothing else has happened. -/
def withCommandNext (w : U32) (s : State) : State :=
  { s with hostQueue := .writeCmd w :: s.hostQueue, status := { s.status with busy := false } }

end Sys2Proof.Machine
end

