-- ==== Sys2Proof/Machine/Step.lean ====
section
/-! DEFINITION. One step: the host's next action, a command running to completion within it (10_state.md R27,
70_reset_and_hazards.md R173). -/

namespace Sys2Proof.Machine

/-- One step. With no action left the block idles and holds all its state (60_exceptions.md R160). An action while
`BUSY` = 1 has no move (70_reset_and_hazards.md R172, 93_implementation_defined.md U5). -/
def step (s : State) : Host.Outcome State Fault Refusal :=
  match s.hostQueue with
  | [] => .next s
  | a :: rest => if s.status.busy then .refused .hostAccessWhileBusy else hostAct a { s with hostQueue := rest }

/-- The state whose next step runs the command word `w` (its low `nbits` bits, the rest 0): the host writes it to `CMD`
next, before its other actions (entry 4). -/
def State.withFetchWord (s : State) (nbits w : Nat) : State := withCommandNext (BitVec.ofNat 32 (w % 2 ^ nbits)) s

end Sys2Proof.Machine
end

