-- ==== Sys2Proof/Safety.lean ====
section
/-! DEFINITION. What the rules say of every state that the block can be in, and the vocabulary of statements about
which part of the state a command leaves alone. -/

namespace Sys2Proof.Machine

/-- A window lies inside XMEM with its cursor in it (10_state.md R40, R41). -/
abbrev Window.Inside (p : Params) (w : Window) : Prop := w.start ≤ w.pos ∧ w.pos ≤ w.stop ∧ w.stop ≤ p.xmemSize

/-- `0 <= free <= cap`, and the written prefix has `cap - free` bytes (10_state.md R36, 44_framer.md R122). -/
abbrev BoundedBuffer.Sound (b : BoundedBuffer) : Prop := b.free ≤ b.cap ∧ b.written.length + b.free = b.cap

/-- The reassembler's buffers fit its state: while AwaitingHeader, HDRBUF has room and PAYBUF is empty; while
AwaitingPayload, HDRBUF is full and PAYBUF has a capacity of 1 to 0xFFFF and room left, since a full payload is emitted
in the same command (10_state.md R37, R38; 44_framer.md R127 to R130). -/
abbrev ReassemblerSound (s : State) : Prop :=
  s.hdrBuf.Sound ∧ s.hdrBuf.cap = 4 ∧ s.payBuf.Sound ∧
    match s.status.rxst with
    | .awaitingHeader => 0 < s.hdrBuf.free ∧ s.payBuf = BoundedBuffer.emptyPayload
    | .awaitingPayload => s.hdrBuf.free = 0 ∧ 0 < s.payBuf.free ∧ s.payBuf.cap ≤ 0xFFFF

/-- While SESS is not OPEN both RollingIvs are zero (10_state.md R33) and the reassembler is in its first state
(10_state.md R46, 40_session_control.md R84). -/
abbrev IdleCipher (s : State) : Prop :=
  s.enc = RollingIv.zero ∧ s.dec = RollingIv.zero ∧ s.status.rxst = .awaitingHeader ∧
    s.hdrBuf = BoundedBuffer.emptyHeader

/-- The session state and its close reason belong together (10_state.md R25, 40_session_control.md R84, R85). -/
abbrev SessionSound (s : State) : Prop :=
  match s.status.sess with
  | .uninit => s.status.closeReason = .notClosed ∧ s.status.frame = false ∧ IdleCipher s
  | .opened => s.status.closeReason = .notClosed
  | .closed => s.status.closeReason ≠ .notClosed ∧ IdleCipher s

/-- What holds at every state that the host observes. -/
structure Inv (s : State) : Prop where
  /-- The parameters meet their constraints (00_scope.md R8). -/
  params_legal : s.params.Legal
  /-- XMEM keeps its canonical form. -/
  xmem_wf : Memory.wf s.xmem
  /-- XMEM holds no byte at or above XMEM_SIZE (20_memory.md R47). -/
  xmem_inside : ∀ c ∈ s.xmem, c.1 < s.params.xmemSize
  /-- The reader window (10_state.md R40). -/
  reader_inside : s.rd.Inside s.params
  /-- The writer window (10_state.md R41). -/
  writer_inside : s.wr.Inside s.params
  /-- `RX_DST + 65535 <= XMEM_SIZE` (10_state.md R39). -/
  rxDst_fits : RangeLegal s.params s.rxDst.toNat 65535
  /-- The reassembler (44_framer.md R127). -/
  reassembler : ReassemblerSound s
  /-- The session (10_state.md R33, R35). -/
  session : SessionSound s
  /-- `BUSY` reads 0 whenever the host may observe the block (10_state.md R25, R27). -/
  not_busy : s.status.busy = false
  /-- `CMD` holds nothing between commands (10_state.md R21). -/
  no_cmd : s.cmd = none

/-- `s` with nothing changed but the end of a command with the code `c`: `STATUS.CC`, `BUSY` = 0 and an empty `CMD`
(60_exceptions.md R147, 10_state.md R21, R27). -/
abbrev State.ended (s : State) (c : Code) : State :=
  { s with cmd := none, status := { s.status with cc := c, busy := false } }

/-- Every byte outside `[a, a + n)` reads in `m'` as it does in `m`. -/
abbrev SameOutside (m m' : Memory) (a n : Nat) : Prop := ∀ b, b < a ∨ a + n ≤ b → readByte m' b = readByte m b

/-- `m'` holds the bytes `bs` at `[a, a + n)` and agrees with `m` everywhere else. -/
abbrev StoresAt (m m' : Memory) (a n : Nat) (bs : List Byte) : Prop :=
  readBytes m' a n = bs ∧ SameOutside m m' a n

/-- 45_codec.md R134: what an underrun leaves, safe and unsafe. -/
abbrev underrunState (safe : Bool) (s : State) : State :=
  if safe then State.ended { s with r0 := 0, status := { s.status with ok := false } } .ok
  else State.ended { s with status := { s.status with ok := false } } .endOfStream

/-- 45_codec.md R140: what a write of `n` bytes that fits leaves: the new memory `m`, the cursor past them, the
count since WR_WIN in R0. -/
abbrev wroteField (s : State) (n : Nat) (m : Memory) : State :=
  State.ended
    { s with
      xmem := m, r0 := BitVec.ofNat 64 (s.wr.pos + n - s.wr.start)
      wr := { s.wr with pos := s.wr.pos + n } } .ok

/-- The four bytes [7:0], [15:8], [23:16], [31:24] of a register (20_memory.md R55). -/
abbrev registerBytes (v : U64) : Bytes4 :=
  ⟨v.extractLsb' 0 8, v.extractLsb' 8 8, v.extractLsb' 16 8, v.extractLsb' 24 8⟩

/-- The number whose byte k, at bits [8k+7:8k], is byte k of the sequence (20_memory.md R55). -/
abbrev bytesValue (q : Bytes4) : Nat :=
  q.b0.toNat + 256 * q.b1.toNat + 65536 * q.b2.toNat + 16777216 * q.b3.toNat

/-- A string descriptor `(len << 32) | addr` (45_codec.md R136 to R138). A number that its half cannot hold is not
constrained (entry 8). -/
abbrev Describes (v : U64) (len addr : Nat) : Prop :=
  (len < 2 ^ 32 → v.toNat / 2 ^ 32 = len) ∧ (addr < 2 ^ 32 → v.toNat % 2 ^ 32 = addr)

/-- `f 0 ^ f 1 ^ ... ^ f (n - 1)` on bytes: what `remember` holds after `n` steps of a round, where step `k` XORs in
`f k` (41_transposition.md R89, R90). -/
def xorSum (f : Nat → Byte) : Nat → Byte
  | 0 => 0
  | n + 1 => xorSum f n ^^^ f n

/-- `k'` is what one pass of ShuffleStep for the IV byte `x` makes of the accumulators `k`: the four updates in their
order, and the four bytes as one little-endian word rotated left by 3 bits (42_shuffle.md R99). -/
abbrev ShufflePass (p : Params) (k : Bytes4) (x : Byte) (k' : Bytes4) : Prop :=
  let table := fun b : Byte => p.shuffleTable.getD b.toNat 0
  let k0 := k.b0 + (table k.b1 - x)
  let merged := bytesValue ⟨k0, k.b1 - (k.b2 ^^^ table x), k.b2 ^^^ (table k.b3 + x), k.b3 + (table x - k0)⟩
  bytesValue k' = merged * 8 % 2 ^ 32 + merged / 2 ^ 29

/-- The codes other than OK that a command can end with (60_exceptions.md R149). -/
def codesOf : Instr → List Code
  | .sessInit => [.sessionState, .boundsViolation]
  | .sessClose | .shuffle | .rxRelease | .rdFully => []
  | .csrRead _ => [.csrAccess]
  | .csrWrite _ => [.csrAccess, .boundsViolation]
  | .tpEnc | .tpDec | .rdWin | .wrWin => [.boundsViolation]
  | .ksXform _ => [.sessionState, .boundsViolation]
  | .hdrBuild => [.sessionState, .headerLength]
  | .hdrCheck => [.sessionState]
  | .txPack => [.sessionState, .boundsViolation, .headerLength]
  | .rxFeed => [.sessionState, .framePending, .boundsViolation, .protocolViolation]
  | .rdInt safe _ | .rdLstr safe => if safe then [] else [.endOfStream]
  | .rdPstr safe _ => if safe then [.boundsViolation] else [.boundsViolation, .endOfStream]
  | .wrInt _ => [.writeOverflow]
  | .wrLstr | .wrPstr _ | .wrBytes => [.boundsViolation, .writeOverflow]

/-- The commands that write R0, the column "R0 written" of 30_encoding.md R76. -/
def writesR0 : Instr → Bool
  | .csrRead _ | .shuffle | .hdrBuild | .hdrCheck | .txPack | .rxFeed => true
  | .rdInt _ _ | .rdLstr _ | .rdPstr _ _ | .rdFully | .wrInt _ | .wrLstr | .wrPstr _ | .wrBytes => true
  | .sessInit | .sessClose | .csrWrite _ | .tpEnc | .tpDec | .ksXform _ | .rxRelease | .rdWin | .wrWin => false

/-- The commands that read or write XMEM (20_memory.md R48). -/
def touchesXmem : Instr → Bool
  | .tpEnc | .tpDec | .ksXform _ | .txPack | .rxFeed | .rdInt _ _ | .rdLstr _ | .rdPstr _ _ => true
  | .wrInt _ | .wrLstr | .wrPstr _ | .wrBytes => true
  | .rdWin | .wrWin | .rdFully | .sessInit | .sessClose | .csrRead _ | .csrWrite _ | .shuffle => false
  | .hdrBuild | .hdrCheck | .rxRelease => false

/-- The commands that move bytes out of XMEM only: they read it and never write it (45_codec.md R135 to R137). -/
def readsXmemOnly : Instr → Bool
  | .rdInt _ _ | .rdLstr _ | .rdPstr _ _ => true
  | .tpEnc | .tpDec | .ksXform _ | .txPack | .rxFeed | .wrInt _ | .wrLstr | .wrPstr _ | .wrBytes => false
  | .rdWin | .wrWin | .rdFully | .sessInit | .sessClose | .csrRead _ | .csrWrite _ | .shuffle => false
  | .hdrBuild | .hdrCheck | .rxRelease => false

/-- The offset of the buffer's byte `j` within its keystream segment: the first segment is BLOCK_LEN - 4 bytes, every
later one BLOCK_LEN (43_rolling_iv.md R110). -/
def segmentOffset (p : Params) (j : Nat) : Nat :=
  if j < p.blockLen - 4 then j else (j - (p.blockLen - 4)) % p.blockLen

end Sys2Proof.Machine
end

