-- ==== Sys2Proof/Certificates/Slice0/Obligations.lean ====
section
/-! DEFINITION. The statements for the provers, in the order of OBLIGATIONS.json. Each docstring names the rule of spec/
it formalises. -/

open Sys2Proof Sys2Proof.Machine

/-! ## Encoding -/

/-- 30_encoding.md R70 to R79: the decoder and the encoder agree in both directions, for every word and command. -/
def Obligations.DecodeEncodeAgree : Prop :=
  ∀ (w : U32) (i : Instr), decodeWord w = .ok i ↔ i.wellFormed = true ∧ encode i = w

/-- 30_encoding.md R77, R79: a word is the command of a row exactly when that row of the match and mask table selects
it, it is illegal exactly when no row does, and no two rows select one word. -/
def Obligations.OpcodeRowsMatchDecoder : Prop :=
  (∀ r ∈ opcodeRows, ∀ w : U32,
    w &&& r.maskBits = r.matchBits ↔ ∃ i, decodeWord w = .ok i ∧ mnemonicOf i = r.mnemonic) ∧
  (∀ w : U32, (∃ e, decodeWord w = .error e) ↔ ∀ r ∈ opcodeRows, w &&& r.maskBits ≠ r.matchBits) ∧
  (∀ w : U32, ∀ r ∈ opcodeRows, ∀ r' ∈ opcodeRows,
    w &&& r.maskBits = r.matchBits → w &&& r'.maskBits = r'.matchBits → r = r')

/-- 30_encoding.md R70, R76, R82: words written out from the encoding of each family decode to their commands. -/
def Obligations.SampleWordsDecode : Prop :=
  decodeWord 0x01000000 = .ok .sessInit ∧ decodeWord 0x03000010 = .ok (.csrRead 0x10) ∧
  decodeWord 0x04000003 = .ok (.csrWrite 3) ∧ decodeWord 0x11000000 = .ok .tpDec ∧
  decodeWord 0x18000000 = .ok .shuffle ∧ decodeWord 0x20040000 = .ok (.ksXform .decrypt) ∧
  decodeWord 0x22000000 = .ok .hdrCheck ∧ decodeWord 0x31000000 = .ok .rxFeed ∧
  decodeWord 0x41090000 = .ok (.rdInt true .w2) ∧ decodeWord 0x4308000D = .ok (.rdPstr true 13) ∧
  decodeWord 0x49030000 = .ok (.wrInt .w8) ∧ decodeWord 0x4B00000D = .ok (.wrPstr 13)

/-! ## Steps and host actions -/

/-- 10_state.md R21, R27, 70_reset_and_hazards.md R173: when the host's next action writes to `CMD` a word that decodes
to the command `i`, the step is `exec i`, with the word in `CMD` and `BUSY` = 1 while it runs and the action taken off
the host's sequence. -/
def Obligations.StepRunsDecodedCommand : Prop :=
  ∀ (s : State) (w : U32) (rest : List HostAction) (i : Instr),
    s.hostQueue = .writeCmd w :: rest → s.status.busy = false → decodeWord w = .ok i →
    step s = exec i { s with hostQueue := rest, cmd := some w, status := { s.status with busy := true } }

/-- 30_encoding.md R78: a word that matches no row of R77 ends with ILLEGAL_COMMAND and has no other effect. -/
def Obligations.IllegalWordHasNoOtherEffect : Prop :=
  ∀ (s : State) (w : U32) (rest : List HostAction),
    s.hostQueue = .writeCmd w :: rest → s.status.busy = false →
    (∀ r ∈ opcodeRows, w &&& r.maskBits ≠ r.matchBits) →
    step s = .next (State.ended { s with hostQueue := rest } .illegalCommand)

/-- 60_exceptions.md R160: with no host action to come the block idles and holds all its state. -/
def Obligations.BlockIdlesWithoutHostAction : Prop :=
  ∀ s : State, s.hostQueue = [] → step s = .next s

/-- 70_reset_and_hazards.md R172, 10_state.md R22, R23, R29, 20_memory.md R47, 93_implementation_defined.md U5: a host
write of an operand register sets that register alone, a host write of R0 has no effect, a host write inside XMEM stores
its bytes alone, reads change nothing and give back what the state holds (entry 12), a write gives nothing back, an XMEM
access that leaves XMEM faults (entry 6), and any action while BUSY = 1 has no move. -/
def Obligations.HostActionsReachTheirTarget : Prop :=
  ∀ (s : State) (a : HostAction) (rest : List HostAction), s.hostQueue = a :: rest →
    (s.status.busy = true → step s = .refused .hostAccessWhileBusy) ∧
    (s.status.busy = false →
      (∀ v, a = .writeOperand .a0 v → step s = .next { s with hostQueue := rest, a0 := v }) ∧
      (∀ v, a = .writeOperand .a1 v → step s = .next { s with hostQueue := rest, a1 := v }) ∧
      (∀ v, a = .writeOperand .a2 v → step s = .next { s with hostQueue := rest, a2 := v }) ∧
      ((∃ v, a = .writeResult v) ∨ (∃ k, a = .readOperand k) ∨ a = .readResult ∨ a = .observeIrq →
        step s = .next { s with hostQueue := rest }) ∧
      (∀ x n, a = .readXmem x n → x + n ≤ s.params.xmemSize → step s = .next { s with hostQueue := rest }) ∧
      (∀ x n, a = .readXmem x n → s.params.xmemSize < x + n → step s = .fault .xmemAddressAbsent) ∧
      (∀ x bs, a = .writeXmem x bs → x + bs.length ≤ s.params.xmemSize →
        ∃ m, StoresAt s.xmem m x bs.length bs ∧ step s = .next { s with hostQueue := rest, xmem := m }) ∧
      (∀ x bs, a = .writeXmem x bs → s.params.xmemSize < x + bs.length → step s = .fault .xmemAddressAbsent) ∧
      (a = .readOperand .a0 → hostSees a s = .register s.a0) ∧
      (a = .readOperand .a1 → hostSees a s = .register s.a1) ∧
      (a = .readOperand .a2 → hostSees a s = .register s.a2) ∧
      (a = .readResult → hostSees a s = .register s.r0) ∧
      (a = .observeIrq → hostSees a s = .irq (decide (eventWord s.events &&& eventWord s.irqEn ≠ 0))) ∧
      (∀ x n, a = .readXmem x n → x + n ≤ s.params.xmemSize →
        ∃ bs : List Byte, hostSees a s = .bytes bs ∧ bs.length = n ∧
          ∀ j < n, bs[j]? = some (readByte s.xmem (x + j))) ∧
      ((∃ k v, a = .writeOperand k v) ∨ (∃ v, a = .writeResult v) ∨ (∃ x bs, a = .writeXmem x bs) →
        hostSees a s = .nothing))

/-- 20_memory.md R47, R50, 70_reset_and_hazards.md R172: a host write inside XMEM stores exactly its bytes, leaves every
other byte and everything else as it was, and keeps the memory's canonical form. -/
def Obligations.HostXmemWriteStoresItsBytes : Prop :=
  ∀ (s : State) (x : Nat) (bs : List Byte) (rest : List HostAction),
    s.hostQueue = .writeXmem x bs :: rest → s.status.busy = false → x + bs.length ≤ s.params.xmemSize →
    ∃ m, StoresAt s.xmem m x bs.length bs ∧ (Memory.wf s.xmem → Memory.wf m) ∧
      step s = .next { s with hostQueue := rest, xmem := m }

/-- 70_reset_and_hazards.md R161, 10_state.md R46: the host's reset gives every piece of state its reset value and keeps
the parameters. A0, A1, A2, R0 and XMEM are unspecified there and are free values (entry 7), of which the statement says
nothing. -/
def Obligations.HostResetRestoresResetValues : Prop :=
  ∀ (s : State) (rest : List HostAction), s.hostQueue = .reset :: rest → s.status.busy = false →
    ∃ t, step s = .next t ∧ t.params = s.params ∧ t.hostQueue = rest ∧ t.cmd = none ∧
      t.status = ⟨.ok, false, false, false, .uninit, .awaitingHeader, .notClosed, false⟩ ∧
      t.events = ⟨false, false⟩ ∧ t.irqEn = ⟨false, false⟩ ∧ irq t = false ∧ t.rxDst = 0 ∧
      t.enc = ⟨⟨0, 0, 0, 0⟩, 0⟩ ∧ t.dec = ⟨⟨0, 0, 0, 0⟩, 0⟩ ∧
      t.hdrBuf = ⟨4, 4, []⟩ ∧ t.payBuf = ⟨0, 0, []⟩ ∧ t.rd = ⟨0, 0, 0⟩ ∧ t.wr = ⟨0, 0, 0⟩

/-! ## Reset and the invariant -/

/-- 10_state.md R46, 70_reset_and_hazards.md R161: the values the spec gives at reset. What it leaves unspecified (A0,
A1, A2, R0, XMEM: entries 2 and 3) is not stated. -/
def Obligations.ResetStateHasSpecValues : Prop :=
  State.reset.status = ⟨.ok, false, false, false, .uninit, .awaitingHeader, .notClosed, false⟩ ∧
  State.reset.cmd = none ∧ State.reset.events = ⟨false, false⟩ ∧ State.reset.irqEn = ⟨false, false⟩ ∧
  irq State.reset = false ∧ State.reset.rxDst = 0 ∧ State.reset.enc = ⟨⟨0, 0, 0, 0⟩, 0⟩ ∧
  State.reset.dec = ⟨⟨0, 0, 0, 0⟩, 0⟩ ∧ State.reset.hdrBuf = ⟨4, 4, []⟩ ∧ State.reset.payBuf = ⟨0, 0, []⟩ ∧
  State.reset.rd = ⟨0, 0, 0⟩ ∧ State.reset.wr = ⟨0, 0, 0⟩

/-- The invariant holds right after reset. -/
def Obligations.ResetStateSatisfiesInv : Prop := Inv State.reset

/-- Every step keeps the invariant: canonical memory inside XMEM, both windows inside XMEM with their cursors in them
(10_state.md R40, R41), RX_DST legal (R39), the reassembler and the session sound (R33, R36 to R38, 44_framer.md R127),
BUSY = 0 and CMD empty at every state the host observes (10_state.md R21, R27). -/
def Obligations.StepKeepsInv : Prop := ∀ s t : State, Inv s → step s = .next t → Inv t

/-! ## Rules about every command -/

/-- 70_reset_and_hazards.md R173, 60_exceptions.md R152, 10_state.md R27: every command, in every state, ends within its
step, in a next state with BUSY = 0 and CMD empty: no command stops the machine. -/
def Obligations.EveryCommandEnds : Prop :=
  ∀ (i : Instr) (s : State), ∃ t, exec i s = .next t ∧ t.status.busy = false ∧ t.cmd = none

/-- 10_state.md R22, R39, R42: no command writes an operand register or a parameter, and only CSR_WRITE of RX_DST and
of IRQ_EN writes those. -/
def Obligations.OperandRegistersNeverWritten : Prop :=
  ∀ (i : Instr) (s t : State), exec i s = .next t →
    t.a0 = s.a0 ∧ t.a1 = s.a1 ∧ t.a2 = s.a2 ∧ t.params = s.params ∧ t.hostQueue = s.hostQueue ∧ t.resets = s.resets ∧
    (i ≠ .csrWrite 0x003 → t.rxDst = s.rxDst) ∧ (i ≠ .csrWrite 0x002 → t.irqEn = s.irqEn)

/-- 10_state.md R22, 30_encoding.md R75: bits [63:32] of the operand registers do not matter to any command but the
8-byte WR_INT. -/
def Obligations.UpperOperandBitsIgnored : Prop :=
  ∀ (i : Instr) (s t : State) (x y z : U64), i ≠ .wrInt .w8 →
    x.toNat % 2 ^ 32 = s.a0.toNat % 2 ^ 32 → y.toNat % 2 ^ 32 = s.a1.toNat % 2 ^ 32 →
    z.toNat % 2 ^ 32 = s.a2.toNat % 2 ^ 32 → exec i s = .next t →
    exec i { s with a0 := x, a1 := y, a2 := z } = .next { t with a0 := x, a1 := y, a2 := z }

/-- 20_memory.md R48: the commands that the rule does not name neither write XMEM nor depend on it, and the three
readers do not write it. -/
def Obligations.OnlyNamedCommandsTouchXmem : Prop :=
  ∀ (i : Instr) (s t : State), exec i s = .next t →
    (touchesXmem i = false → t.xmem = s.xmem ∧
      ∀ m : Memory, exec i { s with xmem := m } = .next { t with xmem := m }) ∧
    (readsXmemOnly i = true → t.xmem = s.xmem)

/-- 60_exceptions.md R147: a command that ends with a code other than OK has no effect but `STATUS.CC`, except that an
unsafe underrun clears `STATUS.OK` and a protocol violation closes the session. -/
def Obligations.RaiseHasNoOtherEffect : Prop :=
  ∀ (i : Instr) (s t : State), exec i s = .next t → t.status.cc ≠ .ok →
    (t.status.cc ≠ .endOfStream → t.status.cc ≠ .protocolViolation → t = s.ended t.status.cc) ∧
    (t.status.cc = .endOfStream → t = State.ended { s with status := { s.status with ok := false } } .endOfStream) ∧
    (t.status.cc = .protocolViolation → i = .rxFeed ∧ s.status.sess = .opened ∧
      ∃ reason, (reason = .invalidHeader ∨ reason = .zeroLength) ∧
        t = State.ended
          { s with
            status := { s.status with sess := .closed, closeReason := reason, rxst := .awaitingHeader }
            events := { s.events with closing := true }
            enc := ⟨⟨0, 0, 0, 0⟩, 0⟩, dec := ⟨⟨0, 0, 0, 0⟩, 0⟩
            hdrBuf := ⟨4, 4, []⟩, payBuf := ⟨0, 0, []⟩ } .protocolViolation)

/-- 60_exceptions.md R149: a command ends with OK or with one of the codes that the table lists for it. -/
def Obligations.CompletionCodesAsListed : Prop :=
  ∀ (i : Instr) (s t : State), exec i s = .next t → t.status.cc = .ok ∨ t.status.cc ∈ codesOf i

/-- 10_state.md R25, R26: `OK`, `V` and `FRAME` are written only by the commands that R25 names, and by none that ends
with a code other than OK but for the underrun's `OK`. -/
def Obligations.FlagsWrittenOnlyByNamedCommands : Prop :=
  ∀ (i : Instr) (s t : State), exec i s = .next t →
    ((∀ safe width, i ≠ .rdInt safe width) → (∀ safe, i ≠ .rdLstr safe) → (∀ safe n, i ≠ .rdPstr safe n) →
      i ≠ .rdFully → t.status.ok = s.status.ok) ∧
    (i ≠ .hdrCheck → i ≠ .sessInit → t.status.v = s.status.v) ∧
    (i ≠ .rxFeed → i ≠ .rxRelease → i ≠ .sessInit → t.status.frame = s.status.frame) ∧
    (t.status.cc ≠ .ok → t.status.v = s.status.v ∧ t.status.frame = s.status.frame ∧
      (t.status.ok = s.status.ok ∨ t.status.cc = .endOfStream ∧ t.status.ok = false))

/-- 10_state.md R30, R31: each IV changes only by one ShuffleStep of its old value, by SESS_INIT or by a close; only
KS_XFORM with D = 0 and TX_PACK do the first on the encrypt side, only KS_XFORM with D = 1 and RX_FEED on the decrypt
side. -/
def Obligations.IvChangesOnlyByShuffleInitOrClose : Prop :=
  ∀ (i : Instr) (s t : State), exec i s = .next t →
    (t.enc.iv = s.enc.iv ∨ i = .sessInit ∨ (s.status.sess = .opened ∧ t.status.sess = .closed ∧ t.enc.iv = ⟨0, 0, 0, 0⟩) ∨
      ((i = .ksXform .encrypt ∨ i = .txPack) ∧ t.enc.iv = shuffleStep s.params s.enc.iv)) ∧
    (t.dec.iv = s.dec.iv ∨ i = .sessInit ∨ (s.status.sess = .opened ∧ t.status.sess = .closed ∧ t.dec.iv = ⟨0, 0, 0, 0⟩) ∨
      ((i = .ksXform .decrypt ∨ i = .rxFeed) ∧ t.dec.iv = shuffleStep s.params s.dec.iv))

/-- 10_state.md R32: the version masks do not change while the session stays open. -/
def Obligations.MasksFixedWhileSessionOpen : Prop :=
  ∀ (i : Instr) (s t : State), exec i s = .next t → s.status.sess = .opened → t.status.sess = .opened →
    t.enc.mask = s.enc.mask ∧ t.dec.mask = s.dec.mask

/-- 10_state.md R35: the session is UNINIT after reset, OPEN after a SESS_INIT that succeeds and CLOSED after a close. It
changes only by a SESS_INIT that opens it and by a SESS_CLOSE or an RX_FEED that closes an open one; KS_XFORM,
HDR_BUILD, HDR_CHECK, TX_PACK and RX_FEED end with SESSION_STATE and have no effect unless it is open, and no other
command does (SESS_INIT apart, which ends so when one is open). -/
def Obligations.SessionMovesOnlyAsListed : Prop :=
  State.reset.status.sess = .uninit ∧
  (∀ s t : State, exec .sessInit s = .next t → t.status.cc = .ok → t.status.sess = .opened) ∧
  (∀ s : State, s.status.sess = .opened → ∃ t, exec .sessClose s = .next t ∧ t.status.sess = .closed) ∧
  (∀ (i : Instr) (s t : State), exec i s = .next t →
    t.status.sess = s.status.sess ∨
    (i = .sessInit ∧ s.status.sess ≠ .opened ∧ t.status.sess = .opened) ∨
    ((i = .sessClose ∨ i = .rxFeed) ∧ s.status.sess = .opened ∧ t.status.sess = .closed)) ∧
  (∀ s : State, s.status.sess ≠ .opened →
    ∀ i ∈ [Instr.ksXform .encrypt, .ksXform .decrypt, .hdrBuild, .hdrCheck, .txPack, .rxFeed],
      exec i s = .next (s.ended .sessionState)) ∧
  (∀ (i : Instr) (s t : State), exec i s = .next t → t.status.cc = .sessionState →
    (i = .sessInit ∧ s.status.sess = .opened) ∨
    (i ∈ [Instr.ksXform .encrypt, .ksXform .decrypt, .hdrBuild, .hdrCheck, .txPack, .rxFeed] ∧
      s.status.sess ≠ .opened))

/-- 10_state.md R28, 60_exceptions.md R151: an event bit falls only by a CSR_WRITE of EVENTS; EV_FRAME rises only when
RX_FEED emits a frame, EV_CLOSING only when the session goes from OPEN to CLOSED, and then each does. -/
def Obligations.EventsMoveOnlyAsListed : Prop :=
  ∀ (i : Instr) (s t : State), exec i s = .next t →
    (i ≠ .csrWrite 0x001 → (s.events.frame = true → t.events.frame = true) ∧
      (s.events.closing = true → t.events.closing = true)) ∧
    (s.events.frame = false → t.events.frame = true → i = .rxFeed ∧ t.status.frame = true) ∧
    (s.events.closing = false → t.events.closing = true → s.status.sess = .opened ∧ t.status.sess = .closed) ∧
    (s.status.sess = .opened → t.status.sess = .closed → t.events.closing = true) ∧
    (s.status.frame = false → t.status.frame = true → t.events.frame = true)

/-- 10_state.md R23, 30_encoding.md R76: only the commands of the column "R0 written" write R0, and none that ends with
a code other than OK. -/
def Obligations.ResultRegisterWrittenAsListed : Prop :=
  ∀ (i : Instr) (s t : State), exec i s = .next t → (writesR0 i = false ∨ t.status.cc ≠ .ok) → t.r0 = s.r0

/-- 10_state.md R29: IRQ equals `(EVENTS & IRQ_EN) != 0`, on the two registers as words. -/
def Obligations.IrqIsMaskedEvents : Prop :=
  ∀ s : State, irq s = true ↔ eventWord s.events &&& eventWord s.irqEn ≠ 0

/-! ## Session and control -/

/-- 40_session_control.md R85: SESS_INIT. -/
def Obligations.SessInitOpensSession : Prop :=
  decodeWord 0x01000000 = .ok .sessInit ∧ ∀ s : State,
    (s.status.sess = .opened → exec .sessInit s = .next (s.ended .sessionState)) ∧
    (s.status.sess ≠ .opened → (s.a0.toNat % 2 ^ 32 = 0 ∨ s.a1.toNat % 2 ^ 32 = 0) →
      exec .sessInit s = .next (s.ended .boundsViolation)) ∧
    (s.status.sess ≠ .opened → s.a0.toNat % 2 ^ 32 ≠ 0 → s.a1.toNat % 2 ^ 32 ≠ 0 →
      exec .sessInit s = .next (State.ended
        { s with
          enc := ⟨registerBytes s.a0, versionMask (s.a2.extractLsb' 0 16) (s.a2.getLsbD 16)⟩
          dec := ⟨registerBytes s.a1, versionMask (s.a2.extractLsb' 0 16) (s.a2.getLsbD 17)⟩
          status := { s.status with
            sess := .opened, rxst := .awaitingHeader, closeReason := .notClosed, frame := false, v := false }
          hdrBuf := ⟨4, 4, []⟩, payBuf := ⟨0, 0, []⟩ } .ok))

/-- 43_rolling_iv.md R104: the version mask is the version with its bytes exchanged, complemented if the flag is 1. -/
def Obligations.VersionMaskSwapsAndComplements : Prop :=
  ∀ ver : U16, (versionMask ver false).toNat = ver.toNat % 256 * 256 + ver.toNat / 256 ∧
    versionMask ver true = ~~~ (versionMask ver false)

/-- 40_session_control.md R84, R86: SESS_CLOSE. -/
def Obligations.SessCloseClosesOnce : Prop :=
  decodeWord 0x02000000 = .ok .sessClose ∧ ∀ s : State,
    (s.status.sess ≠ .opened → exec .sessClose s = .next (s.ended .ok)) ∧
    (s.status.sess = .opened → exec .sessClose s = .next (State.ended
      { s with
        status := { s.status with sess := .closed, closeReason := .hostClose, rxst := .awaitingHeader }
        events := { s.events with closing := true }
        enc := ⟨⟨0, 0, 0, 0⟩, 0⟩, dec := ⟨⟨0, 0, 0, 0⟩, 0⟩
        hdrBuf := ⟨4, 4, []⟩, payBuf := ⟨0, 0, []⟩ } .ok))

/-- 40_session_control.md R87, 10_state.md R25, R44: CSR_READ. Each CSR's value, `STATUS` with BUSY = 0 as it was before
the command; every other number is reserved. A window register of 2^32 shows a free value (`u32View`, entry 8),
and so does a BLOCK_LEN above 2^32 (`blockLenView`). -/
def Obligations.CsrReadGivesMappedValue : Prop :=
  (∀ c : Nat, c < 2 ^ 16 → decodeWord (BitVec.ofNat 32 (0x03000000 + c)) = .ok (.csrRead c)) ∧
  ∀ s : State, s.params.Legal →
    let reads : List (Nat × Nat) :=
      [(0x000, (codeNumber s.status.cc).toNat + 2 ^ 8 * s.status.ok.toNat + 2 ^ 9 * s.status.v.toNat +
          2 ^ 10 * s.status.frame.toNat + 2 ^ 11 * (sessionNumber s.status.sess).toNat +
          2 ^ 13 * (rxPhaseNumber s.status.rxst).toNat + 2 ^ 14 * (closeReasonNumber s.status.closeReason).toNat),
       (0x001, s.events.frame.toNat + 2 * s.events.closing.toNat),
       (0x002, s.irqEn.frame.toNat + 2 * s.irqEn.closing.toNat), (0x003, s.rxDst.toNat),
       (0x010, bytesValue s.enc.iv), (0x011, s.enc.mask.toNat), (0x012, bytesValue s.dec.iv),
       (0x013, s.dec.mask.toNat), (0x020, (u32View s.rd.start).toNat), (0x021, (u32View s.rd.stop).toNat),
       (0x022, (u32View s.rd.pos).toNat), (0x028, (u32View s.wr.start).toNat), (0x029, (u32View s.wr.stop).toNat),
       (0x02A, (u32View s.wr.pos).toNat), (0x030, s.hdrBuf.free % 2 ^ 3), (0x031, s.payBuf.cap % 2 ^ 17),
       (0x032, s.payBuf.free % 2 ^ 17), (0x0F0, s.params.xmemSize), (0x0F1, (blockLenView s.params.blockLen).toNat)]
    (∀ p ∈ reads, ∃ v : U64, v.toNat = p.2 ∧ exec (.csrRead p.1) s = .next (State.ended { s with r0 := v } .ok)) ∧
    (∀ c, c ∉ reads.map (·.1) → exec (.csrRead c) s = .next (s.ended .csrAccess)) ∧
    (∀ v, v < 2 ^ 32 → (u32View v).toNat = v) ∧ (∀ v, v ≤ 2 ^ 32 → (blockLenView v).toNat = v)

/-- 40_session_control.md R88, 10_state.md R28, R29, R39, R44: CSR_WRITE: write one to clear in EVENTS, the two live bits
of IRQ_EN, a legal RX_DST; CSR_ACCESS for every read-only or reserved number. -/
def Obligations.CsrWriteFollowsAccess : Prop :=
  (∀ c : Nat, c < 2 ^ 16 → decodeWord (BitVec.ofNat 32 (0x04000000 + c)) = .ok (.csrWrite c)) ∧
  ∀ s : State,
    exec (.csrWrite 0x001) s = .next (State.ended
      { s with events := ⟨s.events.frame && !s.a0.getLsbD 0, s.events.closing && !s.a0.getLsbD 1⟩ } .ok) ∧
    exec (.csrWrite 0x002) s = .next (State.ended { s with irqEn := ⟨s.a0.getLsbD 0, s.a0.getLsbD 1⟩ } .ok) ∧
    (s.a0.toNat % 2 ^ 32 + 65535 ≤ s.params.xmemSize →
      exec (.csrWrite 0x003) s = .next (State.ended { s with rxDst := s.a0.extractLsb' 0 32 } .ok)) ∧
    (s.params.xmemSize < s.a0.toNat % 2 ^ 32 + 65535 →
      exec (.csrWrite 0x003) s = .next (s.ended .boundsViolation)) ∧
    (∀ c, c ≠ 0x001 → c ≠ 0x002 → c ≠ 0x003 → exec (.csrWrite c) s = .next (s.ended .csrAccess))

/-! ## Transposition and shuffle -/

/-- 41_transposition.md R96, R97: TP_ENC and TP_DEC replace the bytes of a legal range in place, and refuse any other
range with no effect. -/
def Obligations.TranspositionActsInPlace : Prop :=
  decodeWord 0x10000000 = .ok .tpEnc ∧ decodeWord 0x11000000 = .ok .tpDec ∧ ∀ s : State,
    (s.params.xmemSize < operand0 s + operand1 s →
      exec .tpEnc s = .next (s.ended .boundsViolation) ∧ exec .tpDec s = .next (s.ended .boundsViolation)) ∧
    (operand0 s + operand1 s ≤ s.params.xmemSize →
      (∃ m, StoresAt s.xmem m (operand0 s) (operand1 s) (tpEncrypt (readBytes s.xmem (operand0 s) (operand1 s))) ∧
        exec .tpEnc s = .next (State.ended { s with xmem := m } .ok)) ∧
      (∃ m, StoresAt s.xmem m (operand0 s) (operand1 s) (tpDecrypt (readBytes s.xmem (operand0 s) (operand1 s))) ∧
        exec .tpDec s = .next (State.ended { s with xmem := m } .ok)))

/-- 41_transposition.md R89, R90, R93, R94, R95: byte by byte what one even and one odd round give, where the XOR of the
steps so far is what `remember` holds after step `j`; `tpEncrypt` is the six rounds in their order; `tpDecrypt` is its
inverse on both sides, which fixes it; both keep the length. -/
def Obligations.TranspositionRoundTrip : Prop :=
  ∀ d : List Byte,
    ((evenRound d).length = d.length ∧ ∀ j < d.length, (evenRound d)[j]? = some
      (~~~ ((xorSum (fun i => (d.getD i 0).rotateLeft 3 + BitVec.ofNat 8 (d.length - i)) (j + 1)).rotateRight
        ((d.length - j) % 8)) + 0x48)) ∧
    ((oddRound d).length = d.length ∧ ∀ j < d.length, (oddRound d)[j]? = some
      ((xorSum (fun k => (d.getD (d.length - 1 - k) 0).rotateLeft 4 + BitVec.ofNat 8 (d.length - k)) (d.length - j) ^^^
        0x13).rotateRight 3)) ∧
    tpEncrypt d = oddRound (evenRound (oddRound (evenRound (oddRound (evenRound d))))) ∧
    tpDecrypt (tpEncrypt d) = d ∧ tpEncrypt (tpDecrypt d) = d ∧
    (tpEncrypt d).length = d.length ∧ (tpDecrypt d).length = d.length

/-- 42_shuffle.md R99, R103: ShuffleStep is four passes from the seed, one for each byte of the IV in order; SHUFFLE gives
it of its operand in R0, byte k at bits [8k+7:8k], and changes nothing else. -/
def Obligations.ShuffleGivesShuffleStep : Prop :=
  decodeWord 0x18000000 = .ok .shuffle ∧
  (∀ (p : Params) (iv : Bytes4), ∃ a b c : Bytes4,
    ShufflePass p p.shuffleSeed iv.b0 a ∧ ShufflePass p a iv.b1 b ∧ ShufflePass p b iv.b2 c ∧
      ShufflePass p c iv.b3 (shuffleStep p iv)) ∧
  ∀ s : State,
    ∃ v : U64, v.toNat = bytesValue (shuffleStep s.params (registerBytes s.a0)) ∧
      exec .shuffle s = .next (State.ended { s with r0 := v } .ok)

/-! ## Rolling IV -/

/-- 43_rolling_iv.md R116: KS_XFORM on each side: the range XORed with the keystream of that side's IV, that IV advanced
once, the other side untouched; SESSION_STATE, then BOUNDS_VIOLATION. -/
def Obligations.KsXformTransformsAndAdvances : Prop :=
  decodeWord 0x20000000 = .ok (.ksXform .encrypt) ∧ decodeWord 0x20040000 = .ok (.ksXform .decrypt) ∧ ∀ s : State,
    (∀ side, s.status.sess ≠ .opened → exec (.ksXform side) s = .next (s.ended .sessionState)) ∧
    (∀ side, s.status.sess = .opened → s.params.xmemSize < operand0 s + operand1 s →
      exec (.ksXform side) s = .next (s.ended .boundsViolation)) ∧
    (s.status.sess = .opened → operand0 s + operand1 s ≤ s.params.xmemSize →
      (∃ m, StoresAt s.xmem m (operand0 s) (operand1 s)
          (ivTransform s.params (readBytes s.xmem (operand0 s) (operand1 s)) s.enc.iv).1 ∧
        exec (.ksXform .encrypt) s = .next (State.ended
          { s with xmem := m, enc := { s.enc with iv := shuffleStep s.params s.enc.iv } } .ok)) ∧
      (∃ m, StoresAt s.xmem m (operand0 s) (operand1 s)
          (ivTransform s.params (readBytes s.xmem (operand0 s) (operand1 s)) s.dec.iv).1 ∧
        exec (.ksXform .decrypt) s = .next (State.ended
          { s with xmem := m, dec := { s.dec with iv := shuffleStep s.params s.dec.iv } } .ok)))

/-- 43_rolling_iv.md R109 to R111: byte `j` of a transform is XORed with byte `o mod 16` of the tiled IV encrypted
`o / 16 + 1` times, where `o` is the offset of `j` in its segment. -/
def Obligations.TransformKeystreamClosedForm : Prop :=
  ∀ (p : Params) (iv : Bytes4) (d : List Byte) (j : Nat) (hj : j < d.length), p.Legal →
    (ivTransform p d iv).1[j]? =
      some (d[j] ^^^ blockByte ((aes p.aesKey)^[segmentOffset p j / 16 + 1] (tile4 iv)) (segmentOffset p j % 16))

/-- 43_rolling_iv.md R112: a transform is an XOR with a keystream of the IV and the length alone, so it undoes itself;
the next IV is ShuffleStep of the old one whatever the length; a byte of the keystream does not depend on how many
follow it; the second segment starts with the keystream byte of byte 0. -/
def Obligations.TransformLaws : Prop :=
  ∀ (p : Params) (iv : Bytes4) (d : List Byte), p.Legal →
    (ivTransform p d iv).1.length = d.length ∧
    (ivTransform p d iv).1 = List.zipWith (· ^^^ ·) d (ivTransform p (List.replicate d.length 0) iv).1 ∧
    (ivTransform p (ivTransform p d iv).1 iv).1 = d ∧
    (ivTransform p d iv).2 = shuffleStep p iv ∧
    (∀ k, k ≤ d.length → (ivTransform p (d.take k) iv).1 = (ivTransform p d iv).1.take k) ∧
    (p.blockLen - 4 < d.length →
      (ivTransform p (List.replicate d.length 0) iv).1[p.blockLen - 4]? =
        (ivTransform p (List.replicate d.length 0) iv).1[0]?)

/-- 43_rolling_iv.md R113, R117: HDR_BUILD: the header's four bytes in R0, byte by byte; no IV changes. -/
def Obligations.HdrBuildGivesHeader : Prop :=
  decodeWord 0x21000000 = .ok .hdrBuild ∧ ∀ s : State,
    (s.status.sess ≠ .opened → exec .hdrBuild s = .next (s.ended .sessionState)) ∧
    (s.status.sess = .opened → operand0 s < 2 ∨ 0xFFFF < operand0 s →
      exec .hdrBuild s = .next (s.ended .headerLength)) ∧
    (s.status.sess = .opened → 2 ≤ operand0 s → operand0 s ≤ 0xFFFF →
      let h0 := s.enc.iv.b2 ^^^ s.enc.mask.extractLsb' 8 8
      let h1 := s.enc.iv.b3 ^^^ s.enc.mask.extractLsb' 0 8
      ∃ v : U64, v.toNat = bytesValue
          ⟨h0, h1, h0 ^^^ BitVec.ofNat 8 (operand0 s), h1 ^^^ BitVec.ofNat 8 (operand0 s / 256)⟩ ∧
        exec .hdrBuild s = .next (State.ended { s with r0 := v } .ok))

/-- 43_rolling_iv.md R114, R118: HDR_CHECK: V and the decoded length for a header whose first two bytes match, V = 0 and
R0 = 0 otherwise; nothing closes and no IV changes. -/
def Obligations.HdrCheckReportsValidity : Prop :=
  decodeWord 0x22000000 = .ok .hdrCheck ∧ ∀ s : State,
    let h := registerBytes s.a0
    (s.status.sess ≠ .opened → exec .hdrCheck s = .next (s.ended .sessionState)) ∧
    (s.status.sess = .opened →
      h.b0 ^^^ s.dec.iv.b2 = s.dec.mask.extractLsb' 8 8 → h.b1 ^^^ s.dec.iv.b3 = s.dec.mask.extractLsb' 0 8 →
      ∃ len : U64, len.toNat = (h.b0 ^^^ h.b2).toNat + 256 * (h.b1 ^^^ h.b3).toNat ∧
        exec .hdrCheck s = .next (State.ended
          { s with r0 := len, status := { s.status with v := true } } .ok)) ∧
    (s.status.sess = .opened →
      ¬ (h.b0 ^^^ s.dec.iv.b2 = s.dec.mask.extractLsb' 8 8 ∧ h.b1 ^^^ s.dec.iv.b3 = s.dec.mask.extractLsb' 0 8) →
      exec .hdrCheck s = .next (State.ended { s with r0 := 0, status := { s.status with v := false } } .ok))

/-- 43_rolling_iv.md R115: a header validates to its length under the IV and mask it was built with, fails under any
other mask and under any IV whose byte 2 or 3 differs, and does not depend on bytes 0 and 1 of the IV. -/
def Obligations.HeaderLaws : Prop :=
  ∀ (len mask : U16) (iv : Bytes4), 2 ≤ len.toNat →
    validateHeader (constructHeader len iv mask) iv mask = some len ∧
    (∀ mask', mask' ≠ mask → ∀ iv' : Bytes4, iv'.b2 = iv.b2 → iv'.b3 = iv.b3 →
      validateHeader (constructHeader len iv mask) iv' mask' = none) ∧
    (∀ iv' : Bytes4, iv'.b2 ≠ iv.b2 ∨ iv'.b3 ≠ iv.b3 → validateHeader (constructHeader len iv mask) iv' mask = none) ∧
    (∀ x y, constructHeader len { iv with b0 := x, b1 := y } mask = constructHeader len iv mask)

/-! ## Framer -/

/-- 44_framer.md R123, R126: TX_PACK: header and ciphered payload at the destination, computed from the source as it was
before the command; IV_E advanced once; R0 = n + 4; the three refusals in their order, with no effect. -/
def Obligations.TxPackWritesFrame : Prop :=
  decodeWord 0x30000000 = .ok .txPack ∧ ∀ s : State,
    let n := operand1 s
    let payload := readBytes s.xmem (operand0 s) n
    (s.status.sess ≠ .opened → exec .txPack s = .next (s.ended .sessionState)) ∧
    (s.status.sess = .opened →
      s.params.xmemSize < operand0 s + n ∨ s.params.xmemSize < operand2 s + n + 4 →
      exec .txPack s = .next (s.ended .boundsViolation)) ∧
    (s.status.sess = .opened → operand0 s + n ≤ s.params.xmemSize → operand2 s + n + 4 ≤ s.params.xmemSize →
      n < 2 ∨ 0xFFFF < n → exec .txPack s = .next (s.ended .headerLength)) ∧
    (s.status.sess = .opened → operand0 s + n ≤ s.params.xmemSize → operand2 s + n + 4 ≤ s.params.xmemSize →
      2 ≤ n → n ≤ 0xFFFF →
      ∃ m, StoresAt s.xmem m (operand2 s) (n + 4)
          ((constructHeader (BitVec.ofNat 16 n) s.enc.iv s.enc.mask).toList ++
            (ivTransform s.params (tpEncrypt payload) s.enc.iv).1) ∧
        exec .txPack s = .next (State.ended
          { s with
            xmem := m, r0 := BitVec.ofNat 64 (n + 4)
            enc := { s.enc with iv := shuffleStep s.params s.enc.iv } } .ok))

/-- 44_framer.md R125: unpacking what `pack` built, under the same IV, gives the payload back and the same next IV, and
the frame's header validates to the payload's length. -/
def Obligations.UnpackUndoesPack : Prop :=
  ∀ (p : Params) (payload : List Byte) (iv : Bytes4) (mask : U16), 2 ≤ payload.length → payload.length ≤ 0xFFFF →
    unpackFrame p ((packFrame p payload ⟨iv, mask⟩).1.drop 4) iv = (payload, shuffleStep p iv) ∧
    (packFrame p payload ⟨iv, mask⟩).2 = shuffleStep p iv ∧
    ∃ h0 h1 h2 h3, (packFrame p payload ⟨iv, mask⟩).1.take 4 = [h0, h1, h2, h3] ∧
      validateHeader ⟨h0, h1, h2, h3⟩ iv mask = some (BitVec.ofNat 16 payload.length)

/-- 44_framer.md R125, R126, R129, R130: the frame that TX_PACK writes, fed back to a block whose two sides agree, is
emitted by one RX_FEED: the payload stands at RX_DST, the reader window covers it, the whole frame is consumed, and both
IVs are equal again. -/
def Obligations.LoopbackDeliversPayload : Prop :=
  ∀ (s t : State), Inv s → s.status.sess = .opened → s.status.frame = false → s.status.rxst = .awaitingHeader →
    s.hdrBuf.free = 4 → s.enc = s.dec → exec .txPack s = .next t → t.status.cc = .ok →
    ∃ u, exec .rxFeed { t with a0 := BitVec.ofNat 64 (operand2 s), a1 := t.r0 } = .next u ∧
      u.status.cc = .ok ∧ u.status.frame = true ∧ u.events.frame = true ∧ u.r0 = t.r0 ∧
      readBytes u.xmem s.rxDst.toNat (operand1 s) = readBytes s.xmem (operand0 s) (operand1 s) ∧
      u.rd = ⟨s.rxDst.toNat, s.rxDst.toNat + operand1 s, s.rxDst.toNat⟩ ∧
      u.dec = u.enc ∧ u.dec.iv = shuffleStep s.params s.dec.iv ∧ u.status.rxst = .awaitingHeader

/-- 44_framer.md R130, 60_exceptions.md R149: RX_FEED's refusals in their order, each with no effect, and the empty
chunk, which completes with R0 = 0 and changes nothing else. -/
def Obligations.RxFeedRefusesAsListed : Prop :=
  decodeWord 0x31000000 = .ok .rxFeed ∧ ∀ s : State,
    (s.status.sess ≠ .opened → exec .rxFeed s = .next (s.ended .sessionState)) ∧
    (s.status.sess = .opened → s.status.frame = true → exec .rxFeed s = .next (s.ended .framePending)) ∧
    (s.status.sess = .opened → s.status.frame = false → s.params.xmemSize < operand0 s + operand1 s →
      exec .rxFeed s = .next (s.ended .boundsViolation)) ∧
    (s.status.sess = .opened → s.status.frame = false → operand0 s ≤ s.params.xmemSize → operand1 s = 0 →
      ¬ (s.status.rxst = .awaitingPayload ∧ s.payBuf.free = 0) →
      exec .rxFeed s = .next (State.ended { s with r0 := 0 } .ok))

/-- 44_framer.md R119, R127, R130: a chunk that completes neither the header nor the payload is kept whole in the buffer
that waits for it, R0 = n, and nothing else changes. -/
def Obligations.RxFeedGathersPartialInput : Prop :=
  ∀ s : State, s.status.sess = .opened → s.status.frame = false → operand0 s + operand1 s ≤ s.params.xmemSize →
    let n := operand1 s
    let chunk := readBytes s.xmem (operand0 s) n
    (s.status.rxst = .awaitingHeader → n < s.hdrBuf.free →
      exec .rxFeed s = .next (State.ended
        { s with
          r0 := BitVec.ofNat 64 n
          hdrBuf := { s.hdrBuf with free := s.hdrBuf.free - n, written := s.hdrBuf.written ++ chunk } } .ok)) ∧
    (s.status.rxst = .awaitingPayload → n < s.payBuf.free →
      exec .rxFeed s = .next (State.ended
        { s with
          r0 := BitVec.ofNat 64 n
          payBuf := { s.payBuf with free := s.payBuf.free - n, written := s.payBuf.written ++ chunk } } .ok))

/-- 44_framer.md R128, R130: a chunk that completes a valid header of length L >= 1 but not its payload leaves the
reassembler in AwaitingPayload with a payload buffer of capacity L holding the rest of the chunk. -/
def Obligations.RxFeedCompletesHeader : Prop :=
  ∀ (s : State) (h : Bytes4) (len : U16), s.status.sess = .opened → s.status.frame = false →
    operand0 s + operand1 s ≤ s.params.xmemSize → s.status.rxst = .awaitingHeader →
    0 < s.hdrBuf.free → s.hdrBuf.free ≤ operand1 s →
    s.hdrBuf.written ++ readBytes s.xmem (operand0 s) s.hdrBuf.free = h.toList →
    validateHeader h s.dec.iv s.dec.mask = some len → len ≠ 0 → operand1 s - s.hdrBuf.free < len.toNat →
    exec .rxFeed s = .next (State.ended
      { s with
        r0 := BitVec.ofNat 64 (operand1 s)
        status := { s.status with rxst := .awaitingPayload }
        hdrBuf := ⟨s.hdrBuf.cap, 0, h.toList⟩
        payBuf := ⟨len.toNat, len.toNat - (operand1 s - s.hdrBuf.free),
          readBytes s.xmem (operand0 s + s.hdrBuf.free) (operand1 s - s.hdrBuf.free)⟩ } .ok)

/-- 44_framer.md R128, 40_session_control.md R84: a header that fails validation, or decodes to length 0, closes the
session with reason 2 or 3 and RX_FEED raises PROTOCOL_VIOLATION with R0 and XMEM as they were. -/
def Obligations.RxFeedClosesOnBadHeader : Prop :=
  ∀ (s : State) (h : Bytes4) (reason : CloseReason), s.status.sess = .opened → s.status.frame = false →
    operand0 s + operand1 s ≤ s.params.xmemSize → s.status.rxst = .awaitingHeader →
    0 < s.hdrBuf.free → s.hdrBuf.free ≤ operand1 s →
    s.hdrBuf.written ++ readBytes s.xmem (operand0 s) s.hdrBuf.free = h.toList →
    (validateHeader h s.dec.iv s.dec.mask = none ∧ reason = .invalidHeader ∨
      validateHeader h s.dec.iv s.dec.mask = some 0 ∧ reason = .zeroLength) →
    exec .rxFeed s = .next (State.ended
      { s with
        status := { s.status with sess := .closed, closeReason := reason, rxst := .awaitingHeader }
        events := { s.events with closing := true }
        enc := ⟨⟨0, 0, 0, 0⟩, 0⟩, dec := ⟨⟨0, 0, 0, 0⟩, 0⟩
        hdrBuf := ⟨4, 4, []⟩, payBuf := ⟨0, 0, []⟩ } .protocolViolation)

/-- 44_framer.md R129, R130: the payload's last byte emits the frame in the same command: the decrypted payload at
RX_DST, the reader window over it, FRAME and EV_FRAME set, IV_D advanced once, the reassembler back in AwaitingHeader,
R0 the bytes consumed, whether the chunk started inside the payload or held the end of the header too. -/
def Obligations.RxFeedEmitsFrame : Prop :=
  ∀ s : State, s.status.sess = .opened → s.status.frame = false → operand0 s + operand1 s ≤ s.params.xmemSize →
    let emitted := fun (c : List Byte) (used : Nat) (m : Memory) => State.ended
      { s with
        xmem := m, r0 := BitVec.ofNat 64 used
        dec := { s.dec with iv := shuffleStep s.params s.dec.iv }
        rd := ⟨s.rxDst.toNat, s.rxDst.toNat + c.length, s.rxDst.toNat⟩
        status := { s.status with frame := true, rxst := .awaitingHeader }
        events := { s.events with frame := true }
        hdrBuf := ⟨4, 4, []⟩, payBuf := ⟨0, 0, []⟩ } .ok
    let plain := fun (c : List Byte) => tpDecrypt (ivTransform s.params c s.dec.iv).1
    (∀ c : List Byte, s.status.rxst = .awaitingPayload → 0 < s.payBuf.free → s.payBuf.free ≤ operand1 s →
      c = s.payBuf.written ++ readBytes s.xmem (operand0 s) s.payBuf.free →
      ∃ m, StoresAt s.xmem m s.rxDst.toNat c.length (plain c) ∧
        exec .rxFeed s = .next (emitted c s.payBuf.free m)) ∧
    (∀ (h : Bytes4) (len : U16) (c : List Byte), s.status.rxst = .awaitingHeader → 0 < s.hdrBuf.free →
      s.hdrBuf.written ++ readBytes s.xmem (operand0 s) s.hdrBuf.free = h.toList →
      validateHeader h s.dec.iv s.dec.mask = some len → len ≠ 0 → s.hdrBuf.free + len.toNat ≤ operand1 s →
      c = readBytes s.xmem (operand0 s + s.hdrBuf.free) len.toNat →
      ∃ m, StoresAt s.xmem m s.rxDst.toNat c.length (plain c) ∧
        exec .rxFeed s = .next (emitted c (s.hdrBuf.free + len.toNat) m))

/-- 44_framer.md R132: a chunk may be cut anywhere. If the first part ends the command early (a frame, or a violation),
the whole chunk gives the same state; otherwise feeding the rest then gives what feeding the whole chunk at once gives,
but for R0, which counts from where its command started. -/
def Obligations.ChunkMayBeCutAnywhere : Prop :=
  ∀ (s t : State) (n k : Nat), Inv s → s.status.sess = .opened → s.status.frame = false →
    operand0 s + n + k ≤ s.params.xmemSize → n + k < 2 ^ 32 →
    exec .rxFeed { s with a1 := BitVec.ofNat 64 n } = .next t →
    (t.status.frame = true ∨ t.status.cc ≠ .ok →
      exec .rxFeed { s with a1 := BitVec.ofNat 64 (n + k) } = .next { t with a1 := BitVec.ofNat 64 (n + k) }) ∧
    (t.status.frame = false → t.status.cc = .ok →
      ∃ u v, exec .rxFeed { t with a0 := BitVec.ofNat 64 (operand0 s + n), a1 := BitVec.ofNat 64 k } = .next u ∧
        exec .rxFeed { s with a1 := BitVec.ofNat 64 (n + k) } = .next v ∧
        { v with r0 := u.r0, a0 := u.a0, a1 := u.a1 } = u ∧
        (u.status.cc = .ok → v.r0.toNat = n + u.r0.toNat))

/-- 44_framer.md R119, R120, R122: `appendFill` takes min(free, cnt) bytes and never fails, keeps the buffer sound and
its capacity, appends exactly the bytes it counts, and does nothing for cnt = 0 or a full buffer. -/
def Obligations.BoundedBufferLaws : Prop :=
  ∀ (b : BoundedBuffer) (src : List Byte) (off cnt : Nat), b.Sound → off + cnt ≤ src.length →
    (appendFill b src off cnt).2 = min b.free cnt ∧
    (appendFill b src off cnt).1.Sound ∧ (appendFill b src off cnt).1.cap = b.cap ∧
    (appendFill b src off cnt).1.free + (appendFill b src off cnt).2 = b.free ∧
    (appendFill b src off cnt).1.written = b.written ++ (src.drop off).take (min b.free cnt) ∧
    (cnt = 0 ∨ b.free = 0 → appendFill b src off cnt = (b, 0)) ∧
    (∀ c, (resetBuffer c).Sound ∧ (resetBuffer c).cap = c ∧ (resetBuffer c).free = c) ∧
    (∀ c, extractAndReset b c = (b.written, resetBuffer c) ∧ (extractAndReset b c).1.length = b.cap - b.free)

/-- 44_framer.md R131: RX_RELEASE clears FRAME and empties the reader window, and nothing else. -/
def Obligations.RxReleaseEmptiesReaderWindow : Prop :=
  decodeWord 0x32000000 = .ok .rxRelease ∧ ∀ s : State,
    exec .rxRelease s = .next (State.ended
      { s with rd := ⟨0, 0, 0⟩, status := { s.status with frame := false } } .ok)

/-! ## Codec -/

/-- 45_codec.md R133, R139: RD_WIN and WR_WIN set their window and nothing else, and refuse a range that leaves XMEM. -/
def Obligations.WindowCommandsSetWindow : Prop :=
  decodeWord 0x40000000 = .ok .rdWin ∧ decodeWord 0x48000000 = .ok .wrWin ∧ ∀ s : State,
    (operand0 s + operand1 s ≤ s.params.xmemSize →
      exec .rdWin s = .next (State.ended
        { s with rd := ⟨operand0 s, operand0 s + operand1 s, operand0 s⟩ } .ok) ∧
      exec .wrWin s = .next (State.ended
        { s with wr := ⟨operand0 s, operand0 s + operand1 s, operand0 s⟩ } .ok)) ∧
    (s.params.xmemSize < operand0 s + operand1 s →
      exec .rdWin s = .next (s.ended .boundsViolation) ∧ exec .wrWin s = .next (s.ended .boundsViolation))

/-- 45_codec.md R134, R135: RD_INT of n = 2^W bytes, safe and unsafe. -/
def Obligations.RdIntReadsLittleEndian : Prop :=
  (∀ (safe : Bool) (c : Nat) (width : Width), (c, width) ∈ [(0, Width.w1), (1, .w2), (2, .w4), (3, .w8)] →
    decodeWord (BitVec.ofNat 32 (0x41000000 + safe.toNat * 2 ^ 19 + c * 2 ^ 16)) = .ok (.rdInt safe width)) ∧
  ∀ (s : State) (safe : Bool) (n : Nat) (width : Width),
    (n, width) ∈ [(1, Width.w1), (2, .w2), (4, .w4), (8, .w8)] →
    (s.rd.stop < s.rd.pos + n → exec (.rdInt safe width) s = .next (underrunState safe s)) ∧
    (s.rd.pos + n ≤ s.rd.stop →
      ∃ v : U64, v.toNat = ∑ k ∈ Finset.range n, (readByte s.xmem (s.rd.pos + k)).toNat * 2 ^ (8 * k) ∧
        exec (.rdInt safe width) s = .next (State.ended
          { s with
            r0 := v
            rd := { s.rd with pos := s.rd.pos + n }
            status := { s.status with ok := true } } .ok))

/-- 45_codec.md R134, R136: RD_LSTR, whose prefix and content are one read. The length half of R0 is stated always, the
address half below 2^32 (above, entry 8 leaves it free). -/
def Obligations.RdLstrReadsPrefixedString : Prop :=
  (∀ safe : Bool, decodeWord (BitVec.ofNat 32 (0x42000000 + safe.toNat * 2 ^ 19)) = .ok (.rdLstr safe)) ∧
  ∀ (s : State) (safe : Bool),
    let len := (readByte s.xmem s.rd.pos).toNat + 256 * (readByte s.xmem (s.rd.pos + 1)).toNat
    (s.rd.stop < s.rd.pos + 2 ∨ s.rd.stop < s.rd.pos + 2 + len →
      exec (.rdLstr safe) s = .next (underrunState safe s)) ∧
    (s.rd.pos + 2 + len ≤ s.rd.stop →
      ∃ v : U64, Describes v len (s.rd.pos + 2) ∧
        exec (.rdLstr safe) s = .next (State.ended
          { s with
            r0 := v
            rd := { s.rd with pos := s.rd.pos + 2 + len }
            status := { s.status with ok := true } } .ok))

/-- 45_codec.md R134, R137: RD_PSTR of N bytes: the cursor moves N bytes, the length is the place of the first zero among
the first N - 1, and both halves of R0 are stated where they fit their 32 bits. -/
def Obligations.RdPstrReadsPaddedString : Prop :=
  (∀ (safe : Bool) (n : Nat), n < 2 ^ 16 →
    decodeWord (BitVec.ofNat 32 (0x43000000 + safe.toNat * 2 ^ 19 + n)) = .ok (.rdPstr safe n)) ∧
  ∀ (s : State) (safe : Bool) (n : Nat),
    exec (.rdPstr safe 0) s = .next (s.ended .boundsViolation) ∧
    (0 < n → s.rd.stop < s.rd.pos + n → exec (.rdPstr safe n) s = .next (underrunState safe s)) ∧
    (0 < n → s.rd.pos + n ≤ s.rd.stop → ∀ len, len ≤ n - 1 →
      (∀ j < len, readByte s.xmem (s.rd.pos + j) ≠ 0) → (len = n - 1 ∨ readByte s.xmem (s.rd.pos + len) = 0) →
      ∃ v : U64, Describes v len s.rd.pos ∧
        exec (.rdPstr safe n) s = .next (State.ended
          { s with
            r0 := v
            rd := { s.rd with pos := s.rd.pos + n }
            status := { s.status with ok := true } } .ok))

/-- 45_codec.md R138: RD_FULLY gives the rest of the window and moves the cursor to its end. An empty remainder has
length 0 wherever the window ends, at 2^32 too; a half of R0 that 2^32 does not fit is not stated (entry 8). -/
def Obligations.RdFullyDrainsWindow : Prop :=
  decodeWord 0x44000000 = .ok .rdFully ∧ ∀ s : State,
    ∃ v : U64, (s.rd.pos ≤ s.rd.stop → Describes v (s.rd.stop - s.rd.pos) s.rd.pos) ∧
      exec .rdFully s = .next (State.ended
        { s with
          r0 := v
          rd := { s.rd with pos := s.rd.stop }
          status := { s.status with ok := true } } .ok)

/-- 45_codec.md R140, R141: WR_INT of n = 2^W bytes. -/
def Obligations.WrIntWritesLittleEndian : Prop :=
  (∀ (c : Nat) (width : Width), (c, width) ∈ [(0, Width.w1), (1, .w2), (2, .w4), (3, .w8)] →
    decodeWord (BitVec.ofNat 32 (0x49000000 + c * 2 ^ 16)) = .ok (.wrInt width)) ∧
  ∀ (s : State) (n : Nat) (width : Width), (n, width) ∈ [(1, Width.w1), (2, .w2), (4, .w4), (8, .w8)] →
    (s.wr.stop < s.wr.pos + n → exec (.wrInt width) s = .next (s.ended .writeOverflow)) ∧
    (s.wr.pos + n ≤ s.wr.stop →
      ∃ m, (∀ k < n, readByte m (s.wr.pos + k) = s.a0.extractLsb' (8 * k) 8) ∧
        SameOutside s.xmem m s.wr.pos n ∧ exec (.wrInt width) s = .next (wroteField s n m))

/-- 45_codec.md R140, R142: WR_LSTR: a little-endian u16 length and the content, read before anything is written. -/
def Obligations.WrLstrWritesPrefixedString : Prop :=
  decodeWord 0x4A000000 = .ok .wrLstr ∧ ∀ s : State,
    let len := operand1 s
    (0xFFFF < len ∨ s.params.xmemSize < operand0 s + len →
      exec .wrLstr s = .next (s.ended .boundsViolation)) ∧
    (len ≤ 0xFFFF → operand0 s + len ≤ s.params.xmemSize → s.wr.stop < s.wr.pos + 2 + len →
      exec .wrLstr s = .next (s.ended .writeOverflow)) ∧
    (len ≤ 0xFFFF → operand0 s + len ≤ s.params.xmemSize → s.wr.pos + 2 + len ≤ s.wr.stop →
      ∃ m, StoresAt s.xmem m s.wr.pos (2 + len)
          ([BitVec.ofNat 8 len, BitVec.ofNat 8 (len / 256)] ++ readBytes s.xmem (operand0 s) len) ∧
        exec .wrLstr s = .next (wroteField s (2 + len) m))

/-- 45_codec.md R140, R143: WR_PSTR of N bytes: content, terminator, zero padding. -/
def Obligations.WrPstrWritesPaddedString : Prop :=
  (∀ n : Nat, n < 2 ^ 16 → decodeWord (BitVec.ofNat 32 (0x4B000000 + n)) = .ok (.wrPstr n)) ∧
  ∀ (s : State) (n : Nat),
    let len := operand1 s
    (n = 0 ∨ n ≤ len ∨ s.params.xmemSize < operand0 s + len →
      exec (.wrPstr n) s = .next (s.ended .boundsViolation)) ∧
    (len < n → operand0 s + len ≤ s.params.xmemSize → s.wr.stop < s.wr.pos + n →
      exec (.wrPstr n) s = .next (s.ended .writeOverflow)) ∧
    (len < n → operand0 s + len ≤ s.params.xmemSize → s.wr.pos + n ≤ s.wr.stop →
      ∃ m, StoresAt s.xmem m s.wr.pos n (readBytes s.xmem (operand0 s) len ++ List.replicate (n - len) 0) ∧
        exec (.wrPstr n) s = .next (wroteField s n m))

/-- 45_codec.md R140, R144: WR_BYTES: raw bytes, read before anything is written. -/
def Obligations.WrBytesCopiesBytes : Prop :=
  decodeWord 0x4C000000 = .ok .wrBytes ∧ ∀ s : State,
    let len := operand1 s
    (s.params.xmemSize < operand0 s + len → exec .wrBytes s = .next (s.ended .boundsViolation)) ∧
    (operand0 s + len ≤ s.params.xmemSize → s.wr.stop < s.wr.pos + len →
      exec .wrBytes s = .next (s.ended .writeOverflow)) ∧
    (operand0 s + len ≤ s.params.xmemSize → s.wr.pos + len ≤ s.wr.stop →
      ∃ m, StoresAt s.xmem m s.wr.pos len (readBytes s.xmem (operand0 s) len) ∧
        exec .wrBytes s = .next (wroteField s len m))

/-- 45_codec.md R145: what a writer command wrote, the reader command of the same kind reads back over the bytes written:
an integer of every width, a length-prefixed string of every content, a padded string without a zero byte. -/
def Obligations.CodecRoundTrips : Prop :=
  ∀ (s t : State) (safe : Bool), s.wr.stop < 2 ^ 32 →
    (∀ width, exec (.wrInt width) s = .next t → t.status.cc = .ok →
      ∃ u, exec (.rdInt safe width) { t with rd := ⟨s.wr.pos, t.wr.pos, s.wr.pos⟩ } = .next u ∧
        u.status.cc = .ok ∧ u.status.ok = true ∧ u.rd.pos = t.wr.pos ∧
        u.r0.toNat = s.a0.toNat % 2 ^ (8 * widthBytes width)) ∧
    (exec .wrLstr s = .next t → t.status.cc = .ok →
      ∃ u, exec (.rdLstr safe) { t with rd := ⟨s.wr.pos, t.wr.pos, s.wr.pos⟩ } = .next u ∧
        u.status.cc = .ok ∧ u.status.ok = true ∧ u.rd.pos = t.wr.pos ∧ u.r0.toNat / 2 ^ 32 = operand1 s ∧
        readBytes u.xmem (u.r0.toNat % 2 ^ 32) (u.r0.toNat / 2 ^ 32) =
          readBytes s.xmem (operand0 s) (operand1 s)) ∧
    (∀ n, exec (.wrPstr n) s = .next t → t.status.cc = .ok →
      (∀ b ∈ readBytes s.xmem (operand0 s) (operand1 s), b ≠ 0) →
      ∃ u, exec (.rdPstr safe n) { t with rd := ⟨s.wr.pos, t.wr.pos, s.wr.pos⟩ } = .next u ∧
        u.status.cc = .ok ∧ u.status.ok = true ∧ u.rd.pos = t.wr.pos ∧ u.rd.pos = s.wr.pos + n ∧
        u.r0.toNat / 2 ^ 32 = operand1 s ∧
        readBytes u.xmem (u.r0.toNat % 2 ^ 32) (u.r0.toNat / 2 ^ 32) =
          readBytes s.xmem (operand0 s) (operand1 s))
end

