-- ==== Sys2Proof/Laws/Bits.lean ====
section
/-! SUPPORT. Laws of rotations, byte sequences in registers and little-endian values (00_scope.md R10 to R15). -/

namespace Sys2Proof.Machine

theorem rotr8_rotl8_small : ∀ n < 8, ∀ b : Byte, rotr8 (rotl8 b n) n = b := by decide +kernel

theorem rotl8_rotr8_small : ∀ n < 8, ∀ b : Byte, rotl8 (rotr8 b n) n = b := by decide +kernel

theorem rotl8_mod (b : Byte) (n : Nat) : rotl8 b (n % 8) = rotl8 b n := by simp [rotl8]

theorem rotr8_mod (b : Byte) (n : Nat) : rotr8 b (n % 8) = rotr8 b n := by simp [rotr8]

/-- Rotating left and back right restores the byte (00_scope.md R12). -/
@[simp] theorem rotr8_rotl8 (b : Byte) (n : Nat) : rotr8 (rotl8 b n) n = b := by
  rw [← rotl8_mod, ← rotr8_mod]; exact rotr8_rotl8_small _ (Nat.mod_lt _ (by omega)) b

/-- Rotating right and back left restores the byte (00_scope.md R12). -/
@[simp] theorem rotl8_rotr8 (b : Byte) (n : Nat) : rotl8 (rotr8 b n) n = b := by
  rw [← rotl8_mod, ← rotr8_mod]; exact rotl8_rotr8_small _ (Nat.mod_lt _ (by omega)) b

theorem rotl8_small : ∀ n < 8, ∀ b : Byte, rotl8 b n = b.rotateLeft n := by decide +kernel

theorem rotr8_small : ∀ n < 8, ∀ b : Byte, rotr8 b n = b.rotateRight n := by decide +kernel

/-- `rotl8` is the rotation of a bit vector, whatever the count (00_scope.md R12). -/
theorem rotl8_eq_rotateLeft (b : Byte) (n : Nat) : rotl8 b n = b.rotateLeft n := by
  rw [← rotl8_mod, rotl8_small _ (Nat.mod_lt _ (by omega)), BitVec.rotateLeft_mod_eq_rotateLeft]

/-- `rotr8` is the rotation of a bit vector, whatever the count (00_scope.md R12). -/
theorem rotr8_eq_rotateRight (b : Byte) (n : Nat) : rotr8 b n = b.rotateRight n := by
  rw [← rotr8_mod, rotr8_small _ (Nat.mod_lt _ (by omega)), BitVec.rotateRight_mod_eq_rotateRight]

/-- A rotation to the right by 3 and back to the left by 3 is none. -/
@[simp] theorem rotl8_3_rotr8_3 (b : Byte) : rotl8 (rotr8 b 3) 3 = b := rotl8_rotr8 b 3

/-- Two fields side by side, as a number. -/
theorem toNat_append {n m : Nat} (x : BitVec n) (y : BitVec m) : (x ++ y).toNat = x.toNat * 2 ^ m + y.toNat := by
  rw [BitVec.toNat_append, Nat.shiftLeft_eq, Nat.mul_comm, ← Nat.two_pow_add_eq_or_of_lt y.isLt]

/-- The byte of a word at bit `i`, as a number. -/
theorem toNat_extractByte {w : Nat} (v : BitVec w) (i : Nat) : (v.extractLsb' i 8).toNat = v.toNat / 2 ^ i % 2 ^ 8 := by
  rw [BitVec.extractLsb'_toNat, Nat.shiftRight_eq_div_pow]

/-- Byte k at bits [8k+7:8k], as a number (20_memory.md R55). -/
theorem toNat_packBytes4 (q : Bytes4) : (packBytes4 q).toNat = bytesValue q := by
  simp only [packBytes4, toNat_append, bytesValue]; omega

/-- What a register shows of a 4-byte sequence is that sequence (20_memory.md R55). -/
@[simp] theorem unpackBytes4_packBytes4 (q : Bytes4) : unpackBytes4 (packBytes4 q) = q := by
  obtain ⟨a, b, c, d⟩ := q
  have := a.isLt; have := b.isLt; have := c.isLt; have := d.isLt
  simp only [unpackBytes4, Bytes4.mk.injEq, ← BitVec.toNat_inj, toNat_extractByte, toNat_packBytes4, bytesValue]
  omega

/-- Every 32-bit word is a 4-byte sequence (20_memory.md R55). -/
@[simp] theorem packBytes4_unpackBytes4 (w : U32) : packBytes4 (unpackBytes4 w) = w := by
  have := w.isLt
  simp only [← BitVec.toNat_inj, toNat_packBytes4, bytesValue, unpackBytes4, toNat_extractByte]
  omega

@[simp] theorem unpackBytes4_zero : unpackBytes4 0 = Bytes4.zero := by decide

/-- `BE16(b0, b1)` = b0 * 256 + b1 (00_scope.md R13). -/
theorem toNat_be16 (a b : Byte) : (be16 a b).toNat = a.toNat * 256 + b.toNat := toNat_append a b

theorem toNat_hiByte (v : U16) : (hiByte v).toNat = v.toNat / 256 := by
  have := v.isLt
  rw [hiByte, toNat_extractByte]; omega

theorem toNat_loByte (v : U16) : (loByte v).toNat = v.toNat % 256 := by rw [loByte, toNat_extractByte]; omega

/-- `swap16` exchanges the two bytes (00_scope.md R13). -/
theorem toNat_swap16 (v : U16) : (swap16 v).toNat = v.toNat % 256 * 256 + v.toNat / 256 := by
  have := v.isLt
  have h1 : (v &&& 0xFF#16).toNat = v.toNat % 256 := by
    rw [BitVec.toNat_and]; exact Nat.and_two_pow_sub_one_eq_mod v.toNat 8
  have h2 : ((v &&& 0xFF#16) <<< 8).toNat = v.toNat % 256 * 256 := by
    rw [BitVec.toNat_shiftLeft, h1, Nat.shiftLeft_eq]; omega
  have h3 : (v >>> 8).toNat = v.toNat / 256 := by rw [BitVec.toNat_ushiftRight, Nat.shiftRight_eq_div_pow]
  have h4 : v.toNat / 256 < 2 ^ 8 := by omega
  rw [swap16, BitVec.toNat_or, h2, h3, show v.toNat % 256 * 256 = 2 ^ 8 * (v.toNat % 256) by ring,
    ← Nat.two_pow_add_eq_or_of_lt h4]

/-- `swap16` exchanges the two bytes (00_scope.md R13). -/
theorem swap16_eq (v : U16) : swap16 v = be16 (loByte v) (hiByte v) := by
  rw [← BitVec.toNat_inj, toNat_swap16, toNat_be16, toNat_loByte, toNat_hiByte]

/-- A u16 is its two bytes, the high one first (00_scope.md R13). -/
@[simp] theorem be16_hiByte_loByte (v : U16) : be16 (hiByte v) (loByte v) = v := by
  rw [← BitVec.toNat_inj, toNat_be16, toNat_hiByte, toNat_loByte]; omega

@[simp] theorem hiByte_be16 (a b : Byte) : hiByte (be16 a b) = a := by
  have := b.isLt
  rw [← BitVec.toNat_inj, toNat_hiByte, toNat_be16]; omega

@[simp] theorem loByte_be16 (a b : Byte) : loByte (be16 a b) = b := by
  have := b.isLt
  rw [← BitVec.toNat_inj, toNat_loByte, toNat_be16]; omega

/-- `swap16` undoes itself (00_scope.md R13). -/
@[simp] theorem swap16_swap16 (v : U16) : swap16 (swap16 v) = v := by
  rw [swap16_eq (swap16 v), swap16_eq v, loByte_be16, hiByte_be16, be16_hiByte_loByte]

/-- `be16` loses no bit of either byte. -/
theorem be16_inj {a b c d : Byte} : be16 a b = be16 c d ↔ a = c ∧ b = d := by
  refine ⟨fun h => ⟨?_, ?_⟩, fun ⟨h1, h2⟩ => by rw [h1, h2]⟩
  · rw [← hiByte_be16 a b, h, hiByte_be16]
  · rw [← loByte_be16 a b, h, loByte_be16]

@[simp] theorem length_leBytes (n v : Nat) : (leBytes n v).length = n := by
  induction n generalizing v with
  | zero => rfl
  | succ n ih => simp [leBytes, ih]

/-- The little-endian value of the n low bytes of `v` is `v` modulo 256^n (00_scope.md R13, R15). -/
theorem leValue_leBytes (n v : Nat) : leValue (leBytes n v) = v % 256 ^ n := by
  induction n generalizing v with
  | zero => simp [leBytes, leValue, Nat.mod_one]
  | succ n ih =>
    simp only [leBytes, leValue, ih, BitVec.toNat_ofNat]
    rw [show (256 : Nat) ^ (n + 1) = 256 * 256 ^ n from Nat.pow_succ', Nat.mod_mul (x := v)]

/-- An n-byte little-endian value is below 256^n. -/
theorem leValue_lt (bs : List Byte) : leValue bs < 256 ^ bs.length := by
  induction bs with
  | nil => simp [leValue]
  | cons b bs ih =>
    have := b.isLt
    simp only [leValue, List.length_cons, Nat.pow_succ']
    omega

theorem leValue_append (bs cs : List Byte) : leValue (bs ++ cs) = leValue bs + 256 ^ bs.length * leValue cs := by
  induction bs with
  | nil => simp [leValue]
  | cons b bs ih => simp only [List.cons_append, leValue, ih, List.length_cons, Nat.pow_succ']; ring

theorem regField_low32 (v : U64) : regField v 31 0 = v.toNat % 2 ^ 32 := by simp [regField]

theorem regField_low32_lt (v : U64) : regField v 31 0 < 2 ^ 32 := by rw [regField_low32]; exact Nat.mod_lt _ (by norm_num)

/-- A value that fits 32 bits is shown as it is. -/
theorem u32View_of_lt {v : Nat} (h : v < 2 ^ 32) : u32View v = BitVec.ofNat 32 v := if_pos h

theorem toNat_u32View {v : Nat} (h : v < 2 ^ 32) : (u32View v).toNat = v := by
  rw [u32View_of_lt h, BitVec.toNat_ofNat, Nat.mod_eq_of_lt h]

/-- The high half of a descriptor is the length, whatever the address (45_codec.md R136). -/
theorem descriptor_length {len addr : Nat} (h : len < 2 ^ 32) : (descriptor len addr).toNat / 2 ^ 32 = len := by
  have := (u32View addr).isLt
  rw [descriptor, toNat_append, toNat_u32View h]; omega

/-- The low half of a descriptor is the address, whatever the length (45_codec.md R136). -/
theorem descriptor_address {len addr : Nat} (h : addr < 2 ^ 32) : (descriptor len addr).toNat % 2 ^ 32 = addr := by
  rw [descriptor, toNat_append, toNat_u32View h]; omega

/-- A descriptor is length and address side by side (45_codec.md R136). -/
theorem descriptor_toNat {len addr : Nat} (hl : len < 2 ^ 32) (ha : addr < 2 ^ 32) :
    (descriptor len addr).toNat = len * 2 ^ 32 + addr := by
  have h := descriptor_length (addr := addr) hl
  have h' := descriptor_address (len := len) ha
  omega

end Sys2Proof.Machine
end

