-- ==== Sys2Proof/Laws/Decode.lean ====
section
/-! SUPPORT. The fields of a command word (30_encoding.md R70). -/

namespace Sys2Proof

/-- The fields of a word built from fields that fit are those fields, with RSV = 0 (30_encoding.md R70). -/
theorem fieldsOf_wordOf {opc s d w imm : Nat} (ho : opc < 2 ^ 8) (hs : s < 2) (hd : d < 2) (hw : w < 4)
    (hi : imm < 2 ^ 16) : fieldsOf (wordOf opc s d w imm) = ⟨opc, 0, s, d, w, imm⟩ := by
  simp only [fieldsOf, wordField, wordOf, BitVec.toNat_ofNat, Fields.mk.injEq]
  refine ⟨?_, ?_, ?_, ?_, ?_, ?_⟩ <;> norm_num <;> omega

/-- A word is its fields: with RSV = 0 it is the word built from them (30_encoding.md R70). -/
theorem wordOf_fieldsOf (v : U32) (h : (fieldsOf v).rsv = 0) :
    wordOf (fieldsOf v).opc (fieldsOf v).s (fieldsOf v).d (fieldsOf v).w (fieldsOf v).imm = v := by
  have := v.isLt
  apply BitVec.eq_of_toNat_eq
  simp only [fieldsOf, wordField, wordOf, BitVec.toNat_ofNat] at h ⊢
  norm_num at h ⊢
  omega

theorem fieldsOf_bounds (v : U32) :
    (fieldsOf v).opc < 2 ^ 8 ∧ (fieldsOf v).rsv < 2 ^ 4 ∧ (fieldsOf v).s < 2 ∧ (fieldsOf v).d < 2 ∧
      (fieldsOf v).w < 4 ∧ (fieldsOf v).imm < 2 ^ 16 := by
  simp only [fieldsOf, wordField]
  norm_num
  omega

@[simp] theorem sideOfBit_bitOfSide (side : Side) : sideOfBit (bitOfSide side) = side := by cases side <;> rfl

@[simp] theorem widthOfCode_codeOfWidth (width : Width) : widthOfCode (codeOfWidth width) = width := by
  cases width <;> rfl

@[simp] theorem bitOfSafe_eq_one (safe : Bool) : (bitOfSafe safe == 1) = safe := by cases safe <;> rfl

theorem bitOfSide_lt (side : Side) : bitOfSide side < 2 := by cases side <;> decide

theorem codeOfWidth_lt (width : Width) : codeOfWidth width < 4 := by cases width <;> decide

theorem bitOfSafe_lt (safe : Bool) : bitOfSafe safe < 2 := by cases safe <;> decide

theorem codeOfWidth_widthOfCode {w : Nat} (h : w < 4) : codeOfWidth (widthOfCode w) = w := by
  interval_cases w <;> rfl

theorem bitOfSide_sideOfBit {d : Nat} (h : d < 2) : bitOfSide (sideOfBit d) = d := by
  interval_cases d <;> rfl

theorem bitOfSafe_beq_one {b : Nat} (h : b < 2) : bitOfSafe (b == 1) = b := by
  interval_cases b <;> rfl

/-- A word is the sum of its fields at their places (30_encoding.md R70). -/
theorem toNat_eq_fields (v : U32) :
    v.toNat = (fieldsOf v).opc * 2 ^ 24 + ((fieldsOf v).rsv * 2 ^ 20 + ((fieldsOf v).s * 2 ^ 19 +
      ((fieldsOf v).d * 2 ^ 18 + ((fieldsOf v).w * 2 ^ 16 + (fieldsOf v).imm)))) := by
  have := v.isLt
  simp only [fieldsOf, wordField]
  norm_num
  omega

/-- A mask acts on the bits below a place and on those above it apart. -/
theorem and_block (k a b c d : Nat) (hb : b < 2 ^ k) (hd : d < 2 ^ k) :
    (a * 2 ^ k + b) &&& (c * 2 ^ k + d) = (a &&& c) * 2 ^ k + (b &&& d) := by
  have hdiv : ∀ x y : Nat, y < 2 ^ k → (x * 2 ^ k + y) / 2 ^ k = x := fun x y hy => by
    rw [Nat.add_comm, Nat.add_mul_div_right _ _ (by positivity), Nat.div_eq_of_lt hy, Nat.zero_add]
  have hmod : ∀ x y : Nat, y < 2 ^ k → (x * 2 ^ k + y) % 2 ^ k = y := fun x y hy => by
    rw [Nat.add_comm, Nat.add_mul_mod_self_right, Nat.mod_eq_of_lt hy]
  rw [← Nat.div_add_mod ((a * 2 ^ k + b) &&& (c * 2 ^ k + d)) (2 ^ k), Nat.and_div_two_pow, Nat.and_mod_two_pow,
    hdiv a b hb, hdiv c d hd, hmod a b hb, hmod c d hd, Nat.mul_comm]

/-- A row selects a word exactly when it selects each field (30_encoding.md R77). -/
theorem selects_iff_fields (r : OpcodeRow) (w : U32) (hm : (fieldsOf r.matchBits).rsv = 0) :
    w &&& r.maskBits = r.matchBits ↔
      (fieldsOf w).opc &&& (fieldsOf r.maskBits).opc = (fieldsOf r.matchBits).opc ∧
      (fieldsOf w).rsv &&& (fieldsOf r.maskBits).rsv = 0 ∧
      (fieldsOf w).s &&& (fieldsOf r.maskBits).s = (fieldsOf r.matchBits).s ∧
      (fieldsOf w).d &&& (fieldsOf r.maskBits).d = (fieldsOf r.matchBits).d ∧
      (fieldsOf w).w &&& (fieldsOf r.maskBits).w = (fieldsOf r.matchBits).w ∧
      (fieldsOf w).imm &&& (fieldsOf r.maskBits).imm = (fieldsOf r.matchBits).imm := by
  have hb := fieldsOf_bounds w
  have hk := fieldsOf_bounds r.maskBits
  have hc := fieldsOf_bounds r.matchBits
  rw [← BitVec.toNat_inj, BitVec.toNat_and, toNat_eq_fields w, toNat_eq_fields r.maskBits, toNat_eq_fields r.matchBits,
    and_block 24 _ _ _ _ (by omega) (by omega), and_block 20 _ _ _ _ (by omega) (by omega),
    and_block 19 _ _ _ _ (by omega) (by omega), and_block 18 _ _ _ _ (by omega) (by omega),
    and_block 16 _ _ _ _ (by omega) (by omega)]
  have := Nat.and_lt_two_pow (fieldsOf w).opc hk.1
  have := Nat.and_lt_two_pow (fieldsOf w).rsv hk.2.1
  have := Nat.and_lt_two_pow (n := 1) (fieldsOf w).s hk.2.2.1
  have := Nat.and_lt_two_pow (n := 1) (fieldsOf w).d hk.2.2.2.1
  have := Nat.and_lt_two_pow (n := 2) (fieldsOf w).w hk.2.2.2.2.1
  have := Nat.and_lt_two_pow (fieldsOf w).imm hk.2.2.2.2.2
  omega

@[simp] theorem withUnused_ok {unused : List Nat} {i j : Instr} :
    withUnused unused i = .ok j ↔ (∀ x ∈ unused, x = 0) ∧ i = j := by
  unfold withUnused
  split
  · rename_i h
    have h' : ∀ x ∈ unused, x = 0 := by simpa using h
    exact ⟨fun hij => ⟨h', Except.ok.inj hij⟩, fun hij => congrArg Except.ok hij.2⟩
  · rename_i h
    have h' : ¬ ∀ x ∈ unused, x = 0 := by simpa using h
    simp only [reduceCtorEq, false_iff, not_and]
    exact fun h2 => absurd h2 h'

end Sys2Proof
end

