-- ==== Sys2Proof/Laws/Memory.lean ====
section
/-! SUPPORT. What XMEM reads and writes do (00_scope.md R15, 20_memory.md R47, R51). -/

namespace Sys2Proof.Machine

@[simp] theorem length_readBytes (m : Memory) (a n : Nat) : (readBytes m a n).length = n := by
  induction n generalizing a with
  | zero => rfl
  | succ n ih => simp [readBytes, ih]

theorem getElem_readBytes (m : Memory) (a n i : Nat) (h : i < (readBytes m a n).length) :
    (readBytes m a n)[i] = readByte m (a + i) := by
  induction n generalizing a i with
  | zero => simp at h
  | succ n ih =>
    cases i with
    | zero => rfl
    | succ i =>
      simp only [readBytes, List.getElem_cons_succ, ih]
      congr 1; omega

/-- Two memories that agree on a range give the same bytes there. -/
theorem readBytes_congr {m m' : Memory} {a n : Nat} (h : ∀ b, a ≤ b → b < a + n → readByte m' b = readByte m b) :
    readBytes m' a n = readBytes m a n := by
  refine List.ext_getElem (by simp) fun i h1 h2 => ?_
  rw [getElem_readBytes, getElem_readBytes]
  simp only [length_readBytes] at h1
  exact h _ (by omega) (by omega)

theorem readBytes_append (m : Memory) (a n k : Nat) :
    readBytes m a (n + k) = readBytes m a n ++ readBytes m (a + n) k := by
  induction n generalizing a with
  | zero => simp [readBytes]
  | succ n ih =>
    have h : n + 1 + k = (n + k) + 1 := by omega
    simp only [h, readBytes, ih, List.cons_append]
    rw [show a + 1 + n = a + (n + 1) by omega]

theorem readByte_append (m m' : Memory) (a : Nat) (h : ∀ c ∈ m, c.1 ≠ a) : readByte (m ++ m') a = readByte m' a := by
  induction m with
  | nil => rfl
  | cons c m ih =>
    obtain ⟨k, b⟩ := c
    simp only [List.cons_append, readByte]
    rw [if_neg (h (k, b) (by simp)), ih fun c hc => h c (by simp [hc])]

theorem readByte_append_of_mem (m m' : Memory) (a : Nat) (h : ∃ c ∈ m, c.1 = a) :
    readByte (m ++ m') a = readByte m a := by
  induction m with
  | nil => simp at h
  | cons c m ih =>
    obtain ⟨k, b⟩ := c
    by_cases hk : k = a
    · simp [readByte, hk]
    · simp only [List.cons_append, readByte, hk, if_false]
      apply ih
      obtain ⟨c, hc, rfl⟩ := h
      rcases List.mem_cons.1 hc with rfl | hc
      · exact absurd rfl hk
      · exact ⟨c, hc, rfl⟩

theorem readByte_of_absent (m : Memory) (a : Nat) (h : ∀ c ∈ m, c.1 ≠ a) : readByte m a = unwrittenByte := by
  have := readByte_append m [] a h
  simpa [readByte] using this

theorem readByte_filter (m : Memory) (p : Nat → Bool) (a : Nat) (h : p a = true) :
    readByte (m.filter fun c => p c.1) a = readByte m a := by
  induction m with
  | nil => rfl
  | cons c m ih =>
    obtain ⟨k, b⟩ := c
    by_cases hk : k = a
    · subst hk; simp [List.filter, h, readByte]
    · by_cases hp : p k = true
      · simp [List.filter, hp, readByte, hk, ih]
      · simp [List.filter, hp, readByte, hk, ih]

theorem mem_cellsAt {a : Nat} {bs : List Byte} {c : Host.Cell} (h : c ∈ cellsAt a bs) :
    a ≤ c.1 ∧ c.1 < a + bs.length ∧ c.2 ≠ unwrittenByte := by
  induction bs generalizing a with
  | nil => simp [cellsAt] at h
  | cons b bs ih =>
    by_cases hb : b = unwrittenByte
    · simp only [cellsAt, hb, if_true] at h
      have := ih h; exact ⟨by omega, by simp only [List.length_cons]; omega, this.2.2⟩
    · simp only [cellsAt, hb, if_false, List.mem_cons] at h
      rcases h with rfl | h
      · exact ⟨Nat.le_refl _, by simp, hb⟩
      · have := ih h; exact ⟨by omega, by simp only [List.length_cons]; omega, this.2.2⟩

theorem readByte_cellsAt (a : Nat) (bs : List Byte) (i : Nat) (h : i < bs.length) :
    readByte (cellsAt a bs) (a + i) = bs[i] := by
  induction bs generalizing a i with
  | nil => simp at h
  | cons b bs ih =>
    cases i with
    | zero =>
      by_cases hb : b = unwrittenByte
      · simp only [cellsAt, hb, if_true, List.getElem_cons_zero, Nat.add_zero]
        exact readByte_of_absent _ _ fun c hc => by have := mem_cellsAt hc; omega
      · simp [cellsAt, hb, readByte]
    | succ i =>
      have hi : i < bs.length := by simpa using h
      have := ih (a + 1) i hi
      rw [show a + 1 + i = a + (i + 1) by omega] at this
      by_cases hb : b = unwrittenByte
      · simp [cellsAt, hb, this]
      · simp [cellsAt, hb, readByte, this]

/-- Read after write, inside the written range. -/
theorem readByte_writeBytes_inside (m : Memory) (a : Nat) (bs : List Byte) (i : Nat) (h : i < bs.length) :
    readByte (writeBytes m a bs) (a + i) = bs[i] := by
  rw [writeBytes, List.append_assoc, readByte_append _ _ _ (by simp; omega), ← readByte_cellsAt a bs i h]
  by_cases hm : ∃ c ∈ cellsAt a bs, c.1 = a + i
  · exact readByte_append_of_mem _ _ _ hm
  · have hm' : ∀ c ∈ cellsAt a bs, c.1 ≠ a + i := fun c hc he => hm ⟨c, hc, he⟩
    rw [readByte_append _ _ _ hm', readByte_of_absent _ _ hm', readByte_of_absent]
    simp; omega

/-- A write leaves every byte outside its range alone. -/
theorem readByte_writeBytes_outside (m : Memory) (a : Nat) (bs : List Byte) (b : Nat)
    (h : b < a ∨ a + bs.length ≤ b) : readByte (writeBytes m a bs) b = readByte m b := by
  rw [writeBytes, List.append_assoc]
  have hc : ∀ c ∈ cellsAt a bs, c.1 ≠ b := fun c hc => by have := mem_cellsAt hc; omega
  rcases h with h | h
  · rw [← readByte_filter m (fun k => decide (k < a)) b (by simpa using h)]
    by_cases hm : ∃ c ∈ m.filter (fun c => decide (c.1 < a)), c.1 = b
    · exact readByte_append_of_mem _ _ _ hm
    · have hm' : ∀ c ∈ m.filter (fun c => decide (c.1 < a)), c.1 ≠ b := fun c hc he => hm ⟨c, hc, he⟩
      rw [readByte_append _ _ _ hm', readByte_append _ _ _ hc, readByte_of_absent, readByte_of_absent _ _ hm']
      simp; omega
  · rw [readByte_append _ _ _ (by simp; omega), readByte_append _ _ _ hc]
    exact readByte_filter m (fun k => decide (a + bs.length ≤ k)) b (by simpa using h)

/-- Read after write of the whole range. -/
@[simp] theorem readBytes_writeBytes (m : Memory) (a : Nat) (bs : List Byte) :
    readBytes (writeBytes m a bs) a bs.length = bs := by
  refine List.ext_getElem (by simp) fun i h1 h2 => ?_
  rw [getElem_readBytes, readByte_writeBytes_inside]

theorem readBytes_writeBytes_of_length {m : Memory} {a n : Nat} {bs : List Byte} (h : bs.length = n) :
    readBytes (writeBytes m a bs) a n = bs := by subst h; simp

theorem cellsAt_pairwise (a : Nat) (bs : List Byte) : (cellsAt a bs).Pairwise (fun x y => x.1 < y.1) := by
  induction bs generalizing a with
  | nil => simp [cellsAt]
  | cons b bs ih =>
    by_cases hb : b = unwrittenByte
    · simpa [cellsAt, hb] using ih (a + 1)
    · simp only [cellsAt, hb, if_false, List.pairwise_cons]
      exact ⟨fun c hc => by have := mem_cellsAt hc; omega, ih (a + 1)⟩

/-- Every write keeps the canonical form. -/
theorem wf_writeBytes {m : Memory} (h : Memory.wf m) (a : Nat) (bs : List Byte) : Memory.wf (writeBytes m a bs) := by
  obtain ⟨hp, hz⟩ := h
  refine ⟨?_, fun c hc => ?_⟩
  · rw [writeBytes, List.pairwise_append, List.pairwise_append]
    refine ⟨⟨hp.filter _, cellsAt_pairwise a bs, fun x hx y hy => ?_⟩, hp.filter _, fun x hx y hy => ?_⟩
    · have h1 := (List.mem_filter.1 hx).2; have := mem_cellsAt hy
      simp only [decide_eq_true_eq] at h1; omega
    · have h2 := (List.mem_filter.1 hy).2
      simp only [decide_eq_true_eq] at h2
      rcases List.mem_append.1 hx with hx | hx
      · have h1 := (List.mem_filter.1 hx).2
        simp only [decide_eq_true_eq] at h1; omega
      · have := mem_cellsAt hx; omega
  · simp only [writeBytes, List.mem_append] at hc
    rcases hc with (hc | hc) | hc
    · exact hz c (List.mem_filter.1 hc).1
    · exact (mem_cellsAt hc).2.2
    · exact hz c (List.mem_filter.1 hc).1

/-- A write inside the first `n` addresses leaves no entry at or above `n`. -/
theorem writeBytes_inside {m : Memory} {n a : Nat} {bs : List Byte} (h : ∀ c ∈ m, c.1 < n) (hr : a + bs.length ≤ n) :
    ∀ c ∈ writeBytes m a bs, c.1 < n := by
  intro c hc
  simp only [writeBytes, List.mem_append] at hc
  rcases hc with (hc | hc) | hc
  · exact h c (List.mem_filter.1 hc).1
  · have := mem_cellsAt hc; omega
  · exact h c (List.mem_filter.1 hc).1

/-- The canonical form determines the memory: memories that read alike are equal. -/
theorem eq_of_readByte {m m' : Memory} (h : Memory.wf m) (h' : Memory.wf m') (he : ∀ a, readByte m a = readByte m' a) :
    m = m' := by
  induction m generalizing m' with
  | nil =>
    cases m' with
    | nil => rfl
    | cons c m' =>
      have := he c.1
      simp only [readByte, if_true] at this
      exact absurd this.symm (h'.2 c (by simp))
  | cons c m ih =>
    obtain ⟨k, b⟩ := c
    have hm := List.pairwise_cons.1 h.1
    have hb := h.2 (k, b) (by simp)
    cases m' with
    | nil =>
      have := he k
      simp only [readByte, if_true] at this
      exact absurd this hb
    | cons c' m' =>
      obtain ⟨k', b'⟩ := c'
      have hm' := List.pairwise_cons.1 h'.1
      have hb' := h'.2 (k', b') (by simp)
      have hk : k = k' := by
        rcases Nat.lt_trichotomy k k' with hlt | heq | hgt
        · have := he k
          simp only [readByte, if_true, if_neg (Nat.ne_of_gt hlt)] at this
          rw [readByte_of_absent m' k fun c hc => by have := hm'.1 c hc; simp only at this; omega] at this
          exact absurd this hb
        · exact heq
        · have := he k'
          simp only [readByte, if_true, if_neg (Nat.ne_of_gt hgt)] at this
          rw [readByte_of_absent m k' fun c hc => by have := hm.1 c hc; simp only at this; omega] at this
          exact absurd this.symm hb'
      subst hk
      have hbb := he k
      simp only [readByte, if_true] at hbb
      subst hbb
      congr 1
      refine ih ⟨hm.2, fun c hc => h.2 c (by simp [hc])⟩ ⟨hm'.2, fun c hc => h'.2 c (by simp [hc])⟩ fun a => ?_
      by_cases ha : k = a
      · subst ha
        rw [readByte_of_absent m k fun c hc => by have := hm.1 c hc; simp only at this; omega,
          readByte_of_absent m' k fun c hc => by have := hm'.1 c hc; simp only at this; omega]
      · have := he a
        simpa only [readByte, if_neg ha] using this

end Sys2Proof.Machine
end

