-- ==== Sys2Proof/Laws/State.lean ====
section
/-! SUPPORT. One lemma per field of each named update of the state, true by rfl. The proofs stand in parentheses so that simp
rewrites with the lemma and does not hand the kernel a whole state to compare. -/

namespace Sys2Proof.Machine

@[simp] theorem finish_params (c : Code) (s : State) : (finish c s).params = s.params := (rfl)
@[simp] theorem finish_hostQueue (c : Code) (s : State) : (finish c s).hostQueue = s.hostQueue := (rfl)
@[simp] theorem finish_cmd (c : Code) (s : State) : (finish c s).cmd = none := (rfl)
@[simp] theorem finish_a0 (c : Code) (s : State) : (finish c s).a0 = s.a0 := (rfl)
@[simp] theorem finish_a1 (c : Code) (s : State) : (finish c s).a1 = s.a1 := (rfl)
@[simp] theorem finish_a2 (c : Code) (s : State) : (finish c s).a2 = s.a2 := (rfl)
@[simp] theorem finish_r0 (c : Code) (s : State) : (finish c s).r0 = s.r0 := (rfl)
@[simp] theorem finish_status (c : Code) (s : State) : (finish c s).status = { s.status with cc := c, busy := false } := (rfl)
@[simp] theorem finish_events (c : Code) (s : State) : (finish c s).events = s.events := (rfl)
@[simp] theorem finish_irqEn (c : Code) (s : State) : (finish c s).irqEn = s.irqEn := (rfl)
@[simp] theorem finish_rxDst (c : Code) (s : State) : (finish c s).rxDst = s.rxDst := (rfl)
@[simp] theorem finish_enc (c : Code) (s : State) : (finish c s).enc = s.enc := (rfl)
@[simp] theorem finish_dec (c : Code) (s : State) : (finish c s).dec = s.dec := (rfl)
@[simp] theorem finish_hdrBuf (c : Code) (s : State) : (finish c s).hdrBuf = s.hdrBuf := (rfl)
@[simp] theorem finish_payBuf (c : Code) (s : State) : (finish c s).payBuf = s.payBuf := (rfl)
@[simp] theorem finish_rd (c : Code) (s : State) : (finish c s).rd = s.rd := (rfl)
@[simp] theorem finish_wr (c : Code) (s : State) : (finish c s).wr = s.wr := (rfl)
@[simp] theorem finish_xmem (c : Code) (s : State) : (finish c s).xmem = s.xmem := (rfl)
@[simp] theorem finish_resets (c : Code) (s : State) : (finish c s).resets = s.resets := (rfl)

@[simp] theorem setR0_params (v : U64) (s : State) : (setR0 v s).params = s.params := (rfl)
@[simp] theorem setR0_hostQueue (v : U64) (s : State) : (setR0 v s).hostQueue = s.hostQueue := (rfl)
@[simp] theorem setR0_cmd (v : U64) (s : State) : (setR0 v s).cmd = s.cmd := (rfl)
@[simp] theorem setR0_a0 (v : U64) (s : State) : (setR0 v s).a0 = s.a0 := (rfl)
@[simp] theorem setR0_a1 (v : U64) (s : State) : (setR0 v s).a1 = s.a1 := (rfl)
@[simp] theorem setR0_a2 (v : U64) (s : State) : (setR0 v s).a2 = s.a2 := (rfl)
@[simp] theorem setR0_r0 (v : U64) (s : State) : (setR0 v s).r0 = v := (rfl)
@[simp] theorem setR0_status (v : U64) (s : State) : (setR0 v s).status = s.status := (rfl)
@[simp] theorem setR0_events (v : U64) (s : State) : (setR0 v s).events = s.events := (rfl)
@[simp] theorem setR0_irqEn (v : U64) (s : State) : (setR0 v s).irqEn = s.irqEn := (rfl)
@[simp] theorem setR0_rxDst (v : U64) (s : State) : (setR0 v s).rxDst = s.rxDst := (rfl)
@[simp] theorem setR0_enc (v : U64) (s : State) : (setR0 v s).enc = s.enc := (rfl)
@[simp] theorem setR0_dec (v : U64) (s : State) : (setR0 v s).dec = s.dec := (rfl)
@[simp] theorem setR0_hdrBuf (v : U64) (s : State) : (setR0 v s).hdrBuf = s.hdrBuf := (rfl)
@[simp] theorem setR0_payBuf (v : U64) (s : State) : (setR0 v s).payBuf = s.payBuf := (rfl)
@[simp] theorem setR0_rd (v : U64) (s : State) : (setR0 v s).rd = s.rd := (rfl)
@[simp] theorem setR0_wr (v : U64) (s : State) : (setR0 v s).wr = s.wr := (rfl)
@[simp] theorem setR0_xmem (v : U64) (s : State) : (setR0 v s).xmem = s.xmem := (rfl)
@[simp] theorem setR0_resets (v : U64) (s : State) : (setR0 v s).resets = s.resets := (rfl)

@[simp] theorem setOk_params (b : Bool) (s : State) : (setOk b s).params = s.params := (rfl)
@[simp] theorem setOk_hostQueue (b : Bool) (s : State) : (setOk b s).hostQueue = s.hostQueue := (rfl)
@[simp] theorem setOk_cmd (b : Bool) (s : State) : (setOk b s).cmd = s.cmd := (rfl)
@[simp] theorem setOk_a0 (b : Bool) (s : State) : (setOk b s).a0 = s.a0 := (rfl)
@[simp] theorem setOk_a1 (b : Bool) (s : State) : (setOk b s).a1 = s.a1 := (rfl)
@[simp] theorem setOk_a2 (b : Bool) (s : State) : (setOk b s).a2 = s.a2 := (rfl)
@[simp] theorem setOk_r0 (b : Bool) (s : State) : (setOk b s).r0 = s.r0 := (rfl)
@[simp] theorem setOk_status (b : Bool) (s : State) : (setOk b s).status = { s.status with ok := b } := (rfl)
@[simp] theorem setOk_events (b : Bool) (s : State) : (setOk b s).events = s.events := (rfl)
@[simp] theorem setOk_irqEn (b : Bool) (s : State) : (setOk b s).irqEn = s.irqEn := (rfl)
@[simp] theorem setOk_rxDst (b : Bool) (s : State) : (setOk b s).rxDst = s.rxDst := (rfl)
@[simp] theorem setOk_enc (b : Bool) (s : State) : (setOk b s).enc = s.enc := (rfl)
@[simp] theorem setOk_dec (b : Bool) (s : State) : (setOk b s).dec = s.dec := (rfl)
@[simp] theorem setOk_hdrBuf (b : Bool) (s : State) : (setOk b s).hdrBuf = s.hdrBuf := (rfl)
@[simp] theorem setOk_payBuf (b : Bool) (s : State) : (setOk b s).payBuf = s.payBuf := (rfl)
@[simp] theorem setOk_rd (b : Bool) (s : State) : (setOk b s).rd = s.rd := (rfl)
@[simp] theorem setOk_wr (b : Bool) (s : State) : (setOk b s).wr = s.wr := (rfl)
@[simp] theorem setOk_xmem (b : Bool) (s : State) : (setOk b s).xmem = s.xmem := (rfl)
@[simp] theorem setOk_resets (b : Bool) (s : State) : (setOk b s).resets = s.resets := (rfl)

@[simp] theorem setV_params (b : Bool) (s : State) : (setV b s).params = s.params := (rfl)
@[simp] theorem setV_hostQueue (b : Bool) (s : State) : (setV b s).hostQueue = s.hostQueue := (rfl)
@[simp] theorem setV_cmd (b : Bool) (s : State) : (setV b s).cmd = s.cmd := (rfl)
@[simp] theorem setV_a0 (b : Bool) (s : State) : (setV b s).a0 = s.a0 := (rfl)
@[simp] theorem setV_a1 (b : Bool) (s : State) : (setV b s).a1 = s.a1 := (rfl)
@[simp] theorem setV_a2 (b : Bool) (s : State) : (setV b s).a2 = s.a2 := (rfl)
@[simp] theorem setV_r0 (b : Bool) (s : State) : (setV b s).r0 = s.r0 := (rfl)
@[simp] theorem setV_status (b : Bool) (s : State) : (setV b s).status = { s.status with v := b } := (rfl)
@[simp] theorem setV_events (b : Bool) (s : State) : (setV b s).events = s.events := (rfl)
@[simp] theorem setV_irqEn (b : Bool) (s : State) : (setV b s).irqEn = s.irqEn := (rfl)
@[simp] theorem setV_rxDst (b : Bool) (s : State) : (setV b s).rxDst = s.rxDst := (rfl)
@[simp] theorem setV_enc (b : Bool) (s : State) : (setV b s).enc = s.enc := (rfl)
@[simp] theorem setV_dec (b : Bool) (s : State) : (setV b s).dec = s.dec := (rfl)
@[simp] theorem setV_hdrBuf (b : Bool) (s : State) : (setV b s).hdrBuf = s.hdrBuf := (rfl)
@[simp] theorem setV_payBuf (b : Bool) (s : State) : (setV b s).payBuf = s.payBuf := (rfl)
@[simp] theorem setV_rd (b : Bool) (s : State) : (setV b s).rd = s.rd := (rfl)
@[simp] theorem setV_wr (b : Bool) (s : State) : (setV b s).wr = s.wr := (rfl)
@[simp] theorem setV_xmem (b : Bool) (s : State) : (setV b s).xmem = s.xmem := (rfl)
@[simp] theorem setV_resets (b : Bool) (s : State) : (setV b s).resets = s.resets := (rfl)

@[simp] theorem setFrame_params (b : Bool) (s : State) : (setFrame b s).params = s.params := (rfl)
@[simp] theorem setFrame_hostQueue (b : Bool) (s : State) : (setFrame b s).hostQueue = s.hostQueue := (rfl)
@[simp] theorem setFrame_cmd (b : Bool) (s : State) : (setFrame b s).cmd = s.cmd := (rfl)
@[simp] theorem setFrame_a0 (b : Bool) (s : State) : (setFrame b s).a0 = s.a0 := (rfl)
@[simp] theorem setFrame_a1 (b : Bool) (s : State) : (setFrame b s).a1 = s.a1 := (rfl)
@[simp] theorem setFrame_a2 (b : Bool) (s : State) : (setFrame b s).a2 = s.a2 := (rfl)
@[simp] theorem setFrame_r0 (b : Bool) (s : State) : (setFrame b s).r0 = s.r0 := (rfl)
@[simp] theorem setFrame_status (b : Bool) (s : State) : (setFrame b s).status = { s.status with frame := b } := (rfl)
@[simp] theorem setFrame_events (b : Bool) (s : State) : (setFrame b s).events = s.events := (rfl)
@[simp] theorem setFrame_irqEn (b : Bool) (s : State) : (setFrame b s).irqEn = s.irqEn := (rfl)
@[simp] theorem setFrame_rxDst (b : Bool) (s : State) : (setFrame b s).rxDst = s.rxDst := (rfl)
@[simp] theorem setFrame_enc (b : Bool) (s : State) : (setFrame b s).enc = s.enc := (rfl)
@[simp] theorem setFrame_dec (b : Bool) (s : State) : (setFrame b s).dec = s.dec := (rfl)
@[simp] theorem setFrame_hdrBuf (b : Bool) (s : State) : (setFrame b s).hdrBuf = s.hdrBuf := (rfl)
@[simp] theorem setFrame_payBuf (b : Bool) (s : State) : (setFrame b s).payBuf = s.payBuf := (rfl)
@[simp] theorem setFrame_rd (b : Bool) (s : State) : (setFrame b s).rd = s.rd := (rfl)
@[simp] theorem setFrame_wr (b : Bool) (s : State) : (setFrame b s).wr = s.wr := (rfl)
@[simp] theorem setFrame_xmem (b : Bool) (s : State) : (setFrame b s).xmem = s.xmem := (rfl)
@[simp] theorem setFrame_resets (b : Bool) (s : State) : (setFrame b s).resets = s.resets := (rfl)

@[simp] theorem latchCmd_params (w : U32) (s : State) : (latchCmd w s).params = s.params := (rfl)
@[simp] theorem latchCmd_hostQueue (w : U32) (s : State) : (latchCmd w s).hostQueue = s.hostQueue := (rfl)
@[simp] theorem latchCmd_cmd (w : U32) (s : State) : (latchCmd w s).cmd = some w := (rfl)
@[simp] theorem latchCmd_a0 (w : U32) (s : State) : (latchCmd w s).a0 = s.a0 := (rfl)
@[simp] theorem latchCmd_a1 (w : U32) (s : State) : (latchCmd w s).a1 = s.a1 := (rfl)
@[simp] theorem latchCmd_a2 (w : U32) (s : State) : (latchCmd w s).a2 = s.a2 := (rfl)
@[simp] theorem latchCmd_r0 (w : U32) (s : State) : (latchCmd w s).r0 = s.r0 := (rfl)
@[simp] theorem latchCmd_status (w : U32) (s : State) : (latchCmd w s).status = { s.status with busy := true } := (rfl)
@[simp] theorem latchCmd_events (w : U32) (s : State) : (latchCmd w s).events = s.events := (rfl)
@[simp] theorem latchCmd_irqEn (w : U32) (s : State) : (latchCmd w s).irqEn = s.irqEn := (rfl)
@[simp] theorem latchCmd_rxDst (w : U32) (s : State) : (latchCmd w s).rxDst = s.rxDst := (rfl)
@[simp] theorem latchCmd_enc (w : U32) (s : State) : (latchCmd w s).enc = s.enc := (rfl)
@[simp] theorem latchCmd_dec (w : U32) (s : State) : (latchCmd w s).dec = s.dec := (rfl)
@[simp] theorem latchCmd_hdrBuf (w : U32) (s : State) : (latchCmd w s).hdrBuf = s.hdrBuf := (rfl)
@[simp] theorem latchCmd_payBuf (w : U32) (s : State) : (latchCmd w s).payBuf = s.payBuf := (rfl)
@[simp] theorem latchCmd_rd (w : U32) (s : State) : (latchCmd w s).rd = s.rd := (rfl)
@[simp] theorem latchCmd_wr (w : U32) (s : State) : (latchCmd w s).wr = s.wr := (rfl)
@[simp] theorem latchCmd_xmem (w : U32) (s : State) : (latchCmd w s).xmem = s.xmem := (rfl)
@[simp] theorem latchCmd_resets (w : U32) (s : State) : (latchCmd w s).resets = s.resets := (rfl)

@[simp] theorem setSideIv_params (side : Side) (iv : Bytes4) (s : State) : (setSideIv side iv s).params = s.params := by
  cases side <;> rfl
@[simp] theorem setSideIv_hostQueue (side : Side) (iv : Bytes4) (s : State) : (setSideIv side iv s).hostQueue = s.hostQueue := by
  cases side <;> rfl
@[simp] theorem setSideIv_cmd (side : Side) (iv : Bytes4) (s : State) : (setSideIv side iv s).cmd = s.cmd := by
  cases side <;> rfl
@[simp] theorem setSideIv_a0 (side : Side) (iv : Bytes4) (s : State) : (setSideIv side iv s).a0 = s.a0 := by
  cases side <;> rfl
@[simp] theorem setSideIv_a1 (side : Side) (iv : Bytes4) (s : State) : (setSideIv side iv s).a1 = s.a1 := by
  cases side <;> rfl
@[simp] theorem setSideIv_a2 (side : Side) (iv : Bytes4) (s : State) : (setSideIv side iv s).a2 = s.a2 := by
  cases side <;> rfl
@[simp] theorem setSideIv_r0 (side : Side) (iv : Bytes4) (s : State) : (setSideIv side iv s).r0 = s.r0 := by
  cases side <;> rfl
@[simp] theorem setSideIv_status (side : Side) (iv : Bytes4) (s : State) : (setSideIv side iv s).status = s.status := by
  cases side <;> rfl
@[simp] theorem setSideIv_events (side : Side) (iv : Bytes4) (s : State) : (setSideIv side iv s).events = s.events := by
  cases side <;> rfl
@[simp] theorem setSideIv_irqEn (side : Side) (iv : Bytes4) (s : State) : (setSideIv side iv s).irqEn = s.irqEn := by
  cases side <;> rfl
@[simp] theorem setSideIv_rxDst (side : Side) (iv : Bytes4) (s : State) : (setSideIv side iv s).rxDst = s.rxDst := by
  cases side <;> rfl
@[simp] theorem setSideIv_hdrBuf (side : Side) (iv : Bytes4) (s : State) : (setSideIv side iv s).hdrBuf = s.hdrBuf := by
  cases side <;> rfl
@[simp] theorem setSideIv_payBuf (side : Side) (iv : Bytes4) (s : State) : (setSideIv side iv s).payBuf = s.payBuf := by
  cases side <;> rfl
@[simp] theorem setSideIv_rd (side : Side) (iv : Bytes4) (s : State) : (setSideIv side iv s).rd = s.rd := by
  cases side <;> rfl
@[simp] theorem setSideIv_wr (side : Side) (iv : Bytes4) (s : State) : (setSideIv side iv s).wr = s.wr := by
  cases side <;> rfl
@[simp] theorem setSideIv_xmem (side : Side) (iv : Bytes4) (s : State) : (setSideIv side iv s).xmem = s.xmem := by
  cases side <;> rfl
@[simp] theorem setSideIv_resets (side : Side) (iv : Bytes4) (s : State) : (setSideIv side iv s).resets = s.resets := by
  cases side <;> rfl

@[simp] theorem setSideIv_encrypt_enc (iv : Bytes4) (s : State) :
    (setSideIv .encrypt iv s).enc = { s.enc with iv := iv } := (rfl)
@[simp] theorem setSideIv_encrypt_dec (iv : Bytes4) (s : State) : (setSideIv .encrypt iv s).dec = s.dec := (rfl)
@[simp] theorem setSideIv_decrypt_dec (iv : Bytes4) (s : State) :
    (setSideIv .decrypt iv s).dec = { s.dec with iv := iv } := (rfl)
@[simp] theorem setSideIv_decrypt_enc (iv : Bytes4) (s : State) : (setSideIv .decrypt iv s).enc = s.enc := (rfl)

@[simp] theorem sideIv_encrypt (s : State) : sideIv s .encrypt = s.enc := (rfl)
@[simp] theorem sideIv_decrypt (s : State) : sideIv s .decrypt = s.dec := (rfl)

theorem complete_eq (s : State) : complete s = .next (finish .ok s) := rfl
theorem raise_eq (c : Code) (s : State) : raise c s = .next (finish c s) := rfl

@[simp] theorem closeSession_params (r : CloseReason) (s : State) : (closeSession r s).params = s.params := by
  unfold closeSession; split <;> rfl
@[simp] theorem closeSession_hostQueue (r : CloseReason) (s : State) : (closeSession r s).hostQueue = s.hostQueue := by
  unfold closeSession; split <;> rfl
@[simp] theorem closeSession_cmd (r : CloseReason) (s : State) : (closeSession r s).cmd = s.cmd := by
  unfold closeSession; split <;> rfl
@[simp] theorem closeSession_a0 (r : CloseReason) (s : State) : (closeSession r s).a0 = s.a0 := by
  unfold closeSession; split <;> rfl
@[simp] theorem closeSession_a1 (r : CloseReason) (s : State) : (closeSession r s).a1 = s.a1 := by
  unfold closeSession; split <;> rfl
@[simp] theorem closeSession_a2 (r : CloseReason) (s : State) : (closeSession r s).a2 = s.a2 := by
  unfold closeSession; split <;> rfl
@[simp] theorem closeSession_r0 (r : CloseReason) (s : State) : (closeSession r s).r0 = s.r0 := by
  unfold closeSession; split <;> rfl
@[simp] theorem closeSession_irqEn (r : CloseReason) (s : State) : (closeSession r s).irqEn = s.irqEn := by
  unfold closeSession; split <;> rfl
@[simp] theorem closeSession_rxDst (r : CloseReason) (s : State) : (closeSession r s).rxDst = s.rxDst := by
  unfold closeSession; split <;> rfl
@[simp] theorem closeSession_rd (r : CloseReason) (s : State) : (closeSession r s).rd = s.rd := by
  unfold closeSession; split <;> rfl
@[simp] theorem closeSession_wr (r : CloseReason) (s : State) : (closeSession r s).wr = s.wr := by
  unfold closeSession; split <;> rfl
@[simp] theorem closeSession_xmem (r : CloseReason) (s : State) : (closeSession r s).xmem = s.xmem := by
  unfold closeSession; split <;> rfl
@[simp] theorem closeSession_resets (r : CloseReason) (s : State) : (closeSession r s).resets = s.resets := by
  unfold closeSession; split <;> rfl

/-- `close` does nothing unless the session is open (40_session_control.md R84). -/
theorem closeSession_of_not_open (r : CloseReason) (s : State) (h : s.status.sess ≠ .opened) : closeSession r s = s :=
  if_neg h

/-- All that `close` does to an open session (40_session_control.md R84). -/
theorem closeSession_of_open (r : CloseReason) (s : State) (h : s.status.sess = .opened) :
    closeSession r s =
      { s with
        status := { s.status with sess := .closed, closeReason := r, rxst := .awaitingHeader }
        events := { s.events with closing := true }
        enc := RollingIv.zero, dec := RollingIv.zero
        hdrBuf := BoundedBuffer.emptyHeader, payBuf := BoundedBuffer.emptyPayload } :=
  if_pos h

end Sys2Proof.Machine
end

