-- ==== Sys2Proof/Laws/Framer.lean ====
section
/-! SUPPORT. What the bounded buffer and the loop of RX_FEED can do, said once (44_framer.md R119 to R130). -/

namespace Sys2Proof.Machine

/-- `appendFill` over a chunk that fits: all of it is taken (44_framer.md R119). -/
theorem appendFill_of_le {b : BoundedBuffer} {src : List Byte} {off : Nat} (h : src.length - off ≤ b.free) :
    appendFill b src off (src.length - off) =
      (⟨b.cap, b.free - (src.length - off), b.written ++ src.drop off⟩, src.length - off) := by
  simp [appendFill, Nat.min_eq_right h]

/-- `appendFill` over a chunk that fills the buffer (44_framer.md R119). -/
theorem appendFill_of_ge {b : BoundedBuffer} {src : List Byte} {off cnt : Nat} (h : b.free ≤ cnt) :
    appendFill b src off cnt = (⟨b.cap, 0, b.written ++ (src.drop off).take b.free⟩, b.free) := by
  simp [appendFill, Nat.min_eq_left h]

/-- `appendFill` keeps `0 <= free <= cap` and the length of the written prefix (44_framer.md R122). -/
theorem appendFill_sound {b : BoundedBuffer} (h : b.Sound) {src : List Byte} {off cnt : Nat}
    (hc : off + cnt ≤ src.length) : (appendFill b src off cnt).1.Sound := by
  obtain ⟨h1, h2⟩ := h
  simp only [appendFill, BoundedBuffer.Sound, List.length_append, List.length_take, List.length_drop]
  omega

theorem resetBuffer_sound (c : Nat) : (resetBuffer c).Sound := by simp [resetBuffer, BoundedBuffer.Sound]

/-- From inside a payload, the loop takes what the payload still needs: the frame is emitted if the chunk holds it,
and otherwise the rest of the chunk is kept (44_framer.md R129, R130). -/
theorem feedLoop_payload {chunk : List Byte} (passes : Nat) {p : Nat} {s : State} (hx : s.status.rxst = .awaitingPayload)
    (hf : 0 < s.payBuf.free) (hp : p ≤ chunk.length) :
    feedLoop chunk (passes + 2) p s =
      if s.payBuf.free ≤ chunk.length - p then
        feedDone (p + s.payBuf.free) (emitFrame
          { s with payBuf := ⟨s.payBuf.cap, 0, s.payBuf.written ++ (chunk.drop p).take s.payBuf.free⟩ })
      else
        feedDone chunk.length
          { s with
            payBuf := ⟨s.payBuf.cap, s.payBuf.free - (chunk.length - p), s.payBuf.written ++ chunk.drop p⟩ } := by
  have hf0 : s.payBuf.free ≠ 0 := by omega
  rw [feedLoop]
  simp only [hx, hf0, and_false, if_false]
  by_cases he : p = chunk.length
  · subst he
    simp [hf0]
  · rw [if_neg he]
    by_cases hle : s.payBuf.free ≤ chunk.length - p
    · simp only [appendFill_of_ge hle, if_pos hle]
      rw [feedLoop]
      simp only [hx, and_self, if_true]
    · rw [if_neg hle]
      simp only [appendFill_of_le (Nat.le_of_not_le hle)]
      rw [feedLoop]
      have : ¬ s.payBuf.free - (chunk.length - p) = 0 := by omega
      have : p + (chunk.length - p) = chunk.length := by omega
      simp only [*, and_false, if_false, if_true]

/-- From inside a header with room, the loop takes what the header still needs: a shorter chunk is kept, a header that
is complete closes the session or starts its payload (44_framer.md R128, R130). -/
theorem feedLoop_header {chunk : List Byte} (passes : Nat) {s : State} (hx : s.status.rxst = .awaitingHeader)
    (hf : 0 < s.hdrBuf.free) :
    feedLoop chunk (passes + 1) 0 s =
      if chunk.length < s.hdrBuf.free then
        feedDone chunk.length
          { s with hdrBuf := ⟨s.hdrBuf.cap, s.hdrBuf.free - chunk.length, s.hdrBuf.written ++ chunk⟩ }
      else
        let b : BoundedBuffer := ⟨s.hdrBuf.cap, 0, s.hdrBuf.written ++ chunk.take s.hdrBuf.free⟩
        match validateHeader (headerBytes b) s.dec.iv s.dec.mask with
        | none => feedViolation .invalidHeader { s with hdrBuf := b }
        | some len =>
          if len = 0 then feedViolation .zeroLength { s with hdrBuf := b }
          else feedLoop chunk passes s.hdrBuf.free
            { s with
              hdrBuf := b, payBuf := resetBuffer len.toNat
              status := { s.status with rxst := .awaitingPayload } } := by
  have hf0 : s.hdrBuf.free ≠ 0 := by omega
  rw [feedLoop]
  simp only [hx, reduceCtorEq, false_and, if_false]
  by_cases he : 0 = chunk.length
  · rw [if_pos he, if_pos (by omega)]
    obtain rfl := List.eq_nil_of_length_eq_zero he.symm
    simp
  · rw [if_neg he]
    by_cases hlt : chunk.length < s.hdrBuf.free
    · have hk := appendFill_of_le (b := s.hdrBuf) (src := chunk) (off := 0) (by omega)
      rw [Nat.sub_zero, List.drop_zero] at hk
      simp only [Nat.sub_zero, hk, if_pos hlt, Nat.zero_add]
      rw [if_pos (by omega)]
    · have hk := appendFill_of_ge (b := s.hdrBuf) (src := chunk) (off := 0) (Nat.le_of_not_lt hlt)
      rw [List.drop_zero] at hk
      simp only [Nat.sub_zero, hk, if_neg hlt, Nat.zero_add, Nat.lt_irrefl, if_false]
      first | done | rfl

/-- `s` with other reassembly buffers and another reassembler state. -/
def State.reassembling (hb pb : BoundedBuffer) (x : RxPhase) (s : State) : State :=
  { s with hdrBuf := hb, payBuf := pb, status := { s.status with rxst := x } }

/-- Closing forgets what was being reassembled (40_session_control.md R84). -/
theorem closeSession_reassembling {s : State} (ho : SessionOpen s) (r : CloseReason) (hb pb : BoundedBuffer)
    (x : RxPhase) : closeSession r (s.reassembling hb pb x) = closeSession r s := by
  rw [closeSession_of_open r s ho, closeSession_of_open r (s.reassembling hb pb x) ho]
  rfl

/-- The three ways the loop of RX_FEED ends (44_framer.md R128 to R130). -/
inductive FeedEnds (s t : State) : Prop where
  | gathered (hb pb : BoundedBuffer) (x : RxPhase) (p : Nat)
      (h : t = finish .ok (setR0 (BitVec.ofNat 64 p) (s.reassembling hb pb x)))
  | emitted (hb pb : BoundedBuffer) (p : Nat)
      (h : t = finish .ok (setR0 (BitVec.ofNat 64 p) (emitFrame (s.reassembling hb pb .awaitingPayload))))
  | violated (hb pb : BoundedBuffer) (reason : CloseReason)
      (hr : reason = .invalidHeader ∨ reason = .zeroLength)
      (h : t = finish .protocolViolation (closeSession reason (s.reassembling hb pb .awaitingHeader)))

/-- Whatever its state, the loop of RX_FEED ends in one of those three ways. -/
theorem feedLoop_ends (chunk : List Byte) (passes p : Nat) (s : State) :
    ∃ t, feedLoop chunk passes p s = .next t ∧ FeedEnds s t := by
  induction passes generalizing p s with
  | zero => exact ⟨_, rfl, .gathered s.hdrBuf s.payBuf s.status.rxst p rfl⟩
  | succ passes ih =>
    rw [feedLoop]
    split
    · rename_i h
      refine ⟨_, rfl, .emitted s.hdrBuf s.payBuf p ?_⟩
      simp only [State.reassembling, ← h.1]
    · split
      · exact ⟨_, rfl, .gathered s.hdrBuf s.payBuf s.status.rxst p rfl⟩
      · split
        · rename_i hx
          dsimp only
          split
          · exact ⟨_, rfl, .gathered _ s.payBuf s.status.rxst _ rfl⟩
          · split
            · refine ⟨_, rfl, .violated (appendFill s.hdrBuf chunk p (chunk.length - p)).1 s.payBuf _ (.inl rfl) ?_⟩
              simp only [State.reassembling, ← hx]
            · rename_i len _
              split
              · refine ⟨_, rfl, .violated (appendFill s.hdrBuf chunk p (chunk.length - p)).1 s.payBuf _ (.inr rfl) ?_⟩
                simp only [State.reassembling, ← hx]
              · obtain ⟨t, h, he⟩ := ih (p + (appendFill s.hdrBuf chunk p (chunk.length - p)).2)
                  { s with
                    hdrBuf := (appendFill s.hdrBuf chunk p (chunk.length - p)).1
                    payBuf := resetBuffer len.toNat
                    status := { s.status with rxst := .awaitingPayload } }
                refine ⟨t, h, ?_⟩
                cases he with
                | gathered hb pb x q h => exact .gathered hb pb x q h
                | emitted hb pb q h => exact .emitted hb pb q h
                | violated hb pb reason hr h => exact .violated hb pb reason hr h
        · dsimp only
          obtain ⟨t, h, he⟩ := ih (p + (appendFill s.payBuf chunk p (chunk.length - p)).2)
            { s with payBuf := (appendFill s.payBuf chunk p (chunk.length - p)).1 }
          refine ⟨t, h, ?_⟩
          cases he with
          | gathered hb pb x q h => exact .gathered hb pb x q h
          | emitted hb pb q h => exact .emitted hb pb q h
          | violated hb pb reason hr h => exact .violated hb pb reason hr h

/-- Everything RX_FEED can do: one of three refusals, or its loop (44_framer.md R130). -/
theorem execRxFeed_ends (s : State) :
    (¬ SessionOpen s ∧ execRxFeed s = .next (finish .sessionState s)) ∨
    (SessionOpen s ∧ s.status.frame = true ∧ execRxFeed s = .next (finish .framePending s)) ∨
    (SessionOpen s ∧ s.status.frame = false ∧ ¬ RangeLegal s.params (operand0 s) (operand1 s) ∧
      execRxFeed s = .next (finish .boundsViolation s)) ∨
    (SessionOpen s ∧ s.status.frame = false ∧ RangeLegal s.params (operand0 s) (operand1 s) ∧
      ∃ t, execRxFeed s = .next t ∧ FeedEnds s t) := by
  unfold execRxFeed
  split
  · exact .inl ⟨by assumption, rfl⟩
  · rename_i ho
    split
    · exact .inr (.inl ⟨by simpa using ho, by assumption, rfl⟩)
    · rename_i hf
      split
      · exact .inr (.inr (.inl ⟨by simpa using ho, by simpa using hf, by assumption, rfl⟩))
      · rename_i hr
        exact .inr (.inr (.inr ⟨by simpa using ho, by simpa using hf, by simpa using hr, feedLoop_ends _ _ _ _⟩))

end Sys2Proof.Machine
end

