-- ==== Sys2Proof/Laws/Ops.lean ====
section
/-! SUPPORT. Everything the shared operations of the commands can do, one lemma each. -/

namespace Sys2Proof.Machine

/-- What `MemCopyIn` leaves in XMEM (00_scope.md R15). -/
theorem storesAt_writeBytes {m : Memory} {a n : Nat} {bs : List Byte} (h : bs.length = n) :
    StoresAt m (writeBytes m a bs) a n bs := by
  subst h
  exact ⟨readBytes_writeBytes m a bs, fun b hb => readByte_writeBytes_outside m a bs b hb⟩

/-- A prefix of a byte range is a shorter range. -/
theorem take_readBytes (m : Memory) (a : Nat) {n k : Nat} (h : k ≤ n) : (readBytes m a n).take k = readBytes m a k := by
  obtain ⟨j, rfl⟩ := Nat.exists_eq_add_of_le h
  rw [readBytes_append, List.take_left' (length_readBytes m a k)]

/-- The rest of a byte range starts that much later. -/
theorem drop_readBytes (m : Memory) (a : Nat) {n k : Nat} (h : k ≤ n) :
    (readBytes m a n).drop k = readBytes m (a + k) (n - k) := by
  obtain ⟨j, rfl⟩ := Nat.exists_eq_add_of_le h
  rw [readBytes_append, List.drop_left' (length_readBytes m a k), Nat.add_sub_cancel_left]

/-- TP_ENC and TP_DEC: the range in place, or BOUNDS_VIOLATION (41_transposition.md R96, R97). -/
theorem transformRange_ends (f : List Byte → List Byte) (s : State) :
    (RangeLegal s.params (operand0 s) (operand1 s) ∧
      transformRange f s = .next (State.ended
        { s with xmem := writeBytes s.xmem (operand0 s) (f (readBytes s.xmem (operand0 s) (operand1 s))) } .ok)) ∨
    (¬ RangeLegal s.params (operand0 s) (operand1 s) ∧ transformRange f s = .next (s.ended .boundsViolation)) := by
  unfold transformRange
  split
  · exact .inl ⟨by assumption, rfl⟩
  · exact .inr ⟨by assumption, rfl⟩

/-- An underrun, safe and unsafe (45_codec.md R134). -/
theorem underrun_ends (safe : Bool) (s : State) : underrun safe s = .next (underrunState safe s) := by
  cases safe <;> rfl

/-- A read that does not underrun (45_codec.md R134). -/
theorem readDone_ends (v : U64) (k : Nat) (s : State) :
    readDone v k s = .next (State.ended
      { s with
        r0 := v, rd := { s.rd with pos := s.rd.pos + k }, status := { s.status with ok := true } } .ok) := rfl

/-- A write at the cursor: it fits, or WRITE_OVERFLOW (45_codec.md R140). -/
theorem writeField_ends {bs : List Byte} {n : Nat} (hn : bs.length = n) (s : State) :
    (WriteFits s n ∧ writeField bs s = .next (wroteField s n (writeBytes s.xmem s.wr.pos bs))) ∨
    (¬ WriteFits s n ∧ writeField bs s = .next (s.ended .writeOverflow)) := by
  subst hn
  unfold writeField
  split
  · exact .inl ⟨by assumption, rfl⟩
  · exact .inr ⟨by assumption, rfl⟩

/-- The register form of a 4-byte sequence (20_memory.md R55). -/
theorem operandBytes0_eq (s : State) : operandBytes0 s = registerBytes s.a0 := by
  simp only [operandBytes0, unpackBytes4, Bytes4.mk.injEq, registerBytes, ← BitVec.toNat_inj, toNat_extractByte,
    BitVec.toNat_setWidth]
  omega

/-- The register form of a 4-byte sequence (20_memory.md R55). -/
theorem operandBytes1_eq (s : State) : operandBytes1 s = registerBytes s.a1 := by
  simp only [operandBytes1, unpackBytes4, Bytes4.mk.injEq, registerBytes, ← BitVec.toNat_inj, toNat_extractByte,
    BitVec.toNat_setWidth]
  omega

/-- Zero-extending keeps the number (00_scope.md R10). -/
theorem toNat_csrView (v : U32) : (csrView v).toNat = v.toNat := by
  have := v.isLt
  rw [csrView, BitVec.toNat_setWidth, Nat.mod_eq_of_lt (by omega)]

theorem csrOfNumber_eq_events {n : Nat} (h : csrOfNumber n = some .events) : n = 0x001 := by
  unfold csrOfNumber at h
  split at h <;> first | rfl | cases h

theorem csrOfNumber_eq_irqEn {n : Nat} (h : csrOfNumber n = some .irqEn) : n = 0x002 := by
  unfold csrOfNumber at h
  split at h <;> first | rfl | cases h

theorem csrOfNumber_eq_rxDst {n : Nat} (h : csrOfNumber n = some .rxDst) : n = 0x003 := by
  unfold csrOfNumber at h
  split at h <;> first | rfl | cases h

end Sys2Proof.Machine
end

