-- ==== Sys2Proof/Laws/PerInstr.lean ====
section
/-! SUPPORT. Per command: the decoder reads back the word that the encoder writes (30_encoding.md R70 to R79). -/

namespace Sys2Proof.Laws.RoundTrip

/-- Decoding the word of a well-formed command gives that command. -/
def Statement (i : Instr) : Prop := i.wellFormed = true → decodeWord (encode i) = .ok i

/-- A word whose fields fit decodes as its fields do. -/
theorem decode_wordOf {opc s d w imm : Nat} (ho : opc < 2 ^ 8) (hs : s < 2) (hd : d < 2) (hw : w < 4)
    (hi : imm < 2 ^ 16) : decodeWord (wordOf opc s d w imm) = decodeFields ⟨opc, 0, s, d, w, imm⟩ := by
  rw [decodeWord, fieldsOf_wordOf ho hs hd hw hi]

theorem sessInit : Statement (.sessInit) := fun _ => by
  rw [encode, decode_wordOf (by decide) (by decide) (by decide) (by decide) (by decide)]
  rfl

theorem sessClose : Statement (.sessClose) := fun _ => by
  rw [encode, decode_wordOf (by decide) (by decide) (by decide) (by decide) (by decide)]
  rfl

theorem csrRead (csr : Nat) : Statement (.csrRead csr) := fun h => by
  rw [encode, decode_wordOf (by decide) (by decide) (by decide) (by decide) (of_decide_eq_true h)]
  rfl

theorem csrWrite (csr : Nat) : Statement (.csrWrite csr) := fun h => by
  rw [encode, decode_wordOf (by decide) (by decide) (by decide) (by decide) (of_decide_eq_true h)]
  rfl

theorem tpEnc : Statement (.tpEnc) := fun _ => by
  rw [encode, decode_wordOf (by decide) (by decide) (by decide) (by decide) (by decide)]
  rfl

theorem tpDec : Statement (.tpDec) := fun _ => by
  rw [encode, decode_wordOf (by decide) (by decide) (by decide) (by decide) (by decide)]
  rfl

theorem shuffle : Statement (.shuffle) := fun _ => by
  rw [encode, decode_wordOf (by decide) (by decide) (by decide) (by decide) (by decide)]
  rfl

theorem ksXform (side : Side) : Statement (.ksXform side) := fun _ => by
  rw [encode, decode_wordOf (by decide) (by decide) (bitOfSide_lt side) (by decide) (by decide)]
  cases side <;> rfl

theorem hdrBuild : Statement (.hdrBuild) := fun _ => by
  rw [encode, decode_wordOf (by decide) (by decide) (by decide) (by decide) (by decide)]
  rfl

theorem hdrCheck : Statement (.hdrCheck) := fun _ => by
  rw [encode, decode_wordOf (by decide) (by decide) (by decide) (by decide) (by decide)]
  rfl

theorem txPack : Statement (.txPack) := fun _ => by
  rw [encode, decode_wordOf (by decide) (by decide) (by decide) (by decide) (by decide)]
  rfl

theorem rxFeed : Statement (.rxFeed) := fun _ => by
  rw [encode, decode_wordOf (by decide) (by decide) (by decide) (by decide) (by decide)]
  rfl

theorem rxRelease : Statement (.rxRelease) := fun _ => by
  rw [encode, decode_wordOf (by decide) (by decide) (by decide) (by decide) (by decide)]
  rfl

theorem rdWin : Statement (.rdWin) := fun _ => by
  rw [encode, decode_wordOf (by decide) (by decide) (by decide) (by decide) (by decide)]
  rfl

theorem rdInt (safe : Bool) (width : Width) : Statement (.rdInt safe width) := fun _ => by
  rw [encode, decode_wordOf (by decide) (bitOfSafe_lt safe) (by decide) (codeOfWidth_lt width) (by decide)]
  cases safe <;> cases width <;> rfl

theorem rdLstr (safe : Bool) : Statement (.rdLstr safe) := fun _ => by
  rw [encode, decode_wordOf (by decide) (bitOfSafe_lt safe) (by decide) (by decide) (by decide)]
  cases safe <;> rfl

theorem rdPstr (safe : Bool) (n : Nat) : Statement (.rdPstr safe n) := fun h => by
  rw [encode, decode_wordOf (by decide) (bitOfSafe_lt safe) (by decide) (by decide) (of_decide_eq_true h)]
  cases safe <;> rfl

theorem rdFully : Statement (.rdFully) := fun _ => by
  rw [encode, decode_wordOf (by decide) (by decide) (by decide) (by decide) (by decide)]
  rfl

theorem wrWin : Statement (.wrWin) := fun _ => by
  rw [encode, decode_wordOf (by decide) (by decide) (by decide) (by decide) (by decide)]
  rfl

theorem wrInt (width : Width) : Statement (.wrInt width) := fun _ => by
  rw [encode, decode_wordOf (by decide) (by decide) (by decide) (codeOfWidth_lt width) (by decide)]
  cases width <;> rfl

theorem wrLstr : Statement (.wrLstr) := fun _ => by
  rw [encode, decode_wordOf (by decide) (by decide) (by decide) (by decide) (by decide)]
  rfl

theorem wrPstr (n : Nat) : Statement (.wrPstr n) := fun h => by
  rw [encode, decode_wordOf (by decide) (by decide) (by decide) (by decide) (of_decide_eq_true h)]
  rfl

theorem wrBytes : Statement (.wrBytes) := fun _ => by
  rw [encode, decode_wordOf (by decide) (by decide) (by decide) (by decide) (by decide)]
  rfl

end Sys2Proof.Laws.RoundTrip
end

