-- ==== Sys2Proof/Laws/Transposition.lean ====
section
/-! SUPPORT. Laws of the loops of the byte-transposition cipher (41_transposition.md R89 to R92). -/

namespace Sys2Proof.Machine

theorem length_evenLoop (r lb : Byte) (d : List Byte) : (evenLoop r lb d).length = d.length := by
  induction d generalizing r lb with
  | nil => rfl
  | cons b d ih => simp [evenLoop, ih]

theorem length_oddLoop (r lb : Byte) (d : List Byte) : (oddLoop r lb d).length = d.length := by
  induction d generalizing r lb with
  | nil => rfl
  | cons b d ih => simp [oddLoop, ih]

theorem length_evenLoopInv (r lb : Byte) (d : List Byte) : (evenLoopInv r lb d).length = d.length := by
  induction d generalizing r lb with
  | nil => rfl
  | cons b d ih => simp [evenLoopInv, ih]

theorem length_oddLoopInv (r lb : Byte) (d : List Byte) : (oddLoopInv r lb d).length = d.length := by
  induction d generalizing r lb with
  | nil => rfl
  | cons b d ih => simp [oddLoopInv, ih]

/-- `evenRoundInv` undoes `evenRound` step by step: its `remember` chain is the forward one (41_transposition.md R91). -/
theorem evenLoopInv_evenLoop (r lb : Byte) (d : List Byte) : evenLoopInv r lb (evenLoop r lb d) = d := by
  induction d generalizing r lb with
  | nil => rfl
  | cons b d ih => simp [evenLoop, evenLoopInv, ih]

/-- `evenRound` undoes `evenRoundInv` (41_transposition.md R91). -/
theorem evenLoop_evenLoopInv (r lb : Byte) (d : List Byte) : evenLoop r lb (evenLoopInv r lb d) = d := by
  induction d generalizing r lb with
  | nil => rfl
  | cons b d ih => simp [evenLoop, evenLoopInv, ih]

/-- `oddRoundInv` undoes `oddRound` step by step (41_transposition.md R92). -/
theorem oddLoopInv_oddLoop (r lb : Byte) (d : List Byte) : oddLoopInv r lb (oddLoop r lb d) = d := by
  induction d generalizing r lb with
  | nil => rfl
  | cons b d ih => simp [oddLoop, oddLoopInv, ih]

/-- `oddRound` undoes `oddRoundInv` (41_transposition.md R92). -/
theorem oddLoop_oddLoopInv (r lb : Byte) (d : List Byte) : oddLoop r lb (oddLoopInv r lb d) = d := by
  induction d generalizing r lb with
  | nil => rfl
  | cons b d ih => simp [oddLoop, oddLoopInv, ih]

theorem length_evenRound (d : List Byte) : (evenRound d).length = d.length := length_evenLoop _ _ _

theorem length_evenRoundInv (d : List Byte) : (evenRoundInv d).length = d.length := length_evenLoopInv _ _ _

theorem length_oddRound (d : List Byte) : (oddRound d).length = d.length := by simp [oddRound, length_oddLoop]

theorem length_oddRoundInv (d : List Byte) : (oddRoundInv d).length = d.length := by simp [oddRoundInv, length_oddLoopInv]

theorem length_tpEncrypt (d : List Byte) : (tpEncrypt d).length = d.length := by
  simp [tpEncrypt, length_evenRound, length_oddRound]

theorem length_tpDecrypt (d : List Byte) : (tpDecrypt d).length = d.length := by
  simp [tpDecrypt, length_evenRoundInv, length_oddRoundInv]

end Sys2Proof.Machine
end

