-- ==== Sys2Proof/Laws/RollingIv.lean ====
section
/-! SUPPORT. Laws of one keystream segment, of headers and of the frame's parts (43_rolling_iv.md R109 to R114). -/

namespace Sys2Proof.Machine

theorem length_xorSegment (keys : List Block) (b : Block) (j : Nat) (d : List Byte) :
    (xorSegment keys b j d).length = d.length := by
  induction d generalizing b j with
  | nil => rfl
  | cons x d ih => simp [xorSegment, ih]

theorem length_xorSegments (keys : List Block) (iv : Bytes4) (bl fuel seg : Nat) (d : List Byte) :
    (xorSegments keys iv bl fuel seg d).length = d.length := by
  induction fuel generalizing seg d with
  | zero => rfl
  | succ fuel ih =>
    cases d with
    | nil => rfl
    | cons x d =>
      rw [xorSegments, List.length_append, length_xorSegment, ih, ← List.length_append, List.take_append_drop]

/-- A transform keeps the length of its data (43_rolling_iv.md R111). -/
theorem length_ivTransform (p : Params) (d : List Byte) (iv : Bytes4) : (ivTransform p d iv).1.length = d.length :=
  length_xorSegments _ _ _ _ _ _

/-- Output feedback: byte `i` of a segment that has run `j` bytes is XORed with a byte of the tiled IV encrypted
`(j + i) / 16 + 1` times (43_rolling_iv.md R109). -/
theorem getElem?_xorSegment (keys : List Block) (t : Block) (d : List Byte) (j i : Nat) :
    (xorSegment keys ((aesWith keys)^[(j + 15) / 16] t) j d)[i]? =
      d[i]?.map (· ^^^ blockByte ((aesWith keys)^[(j + i) / 16 + 1] t) ((j + i) % 16)) := by
  induction d generalizing j i with
  | nil => simp [xorSegment]
  | cons x d ih =>
    have hb : (if j % 16 = 0 then aesWith keys ((aesWith keys)^[(j + 15) / 16] t)
        else (aesWith keys)^[(j + 15) / 16] t) = (aesWith keys)^[j / 16 + 1] t := by
      split
      · rw [show (j + 15) / 16 = j / 16 by omega, Function.iterate_succ_apply']
      · rw [show (j + 15) / 16 = j / 16 + 1 by omega]
    have hn : j / 16 + 1 = (j + 1 + 15) / 16 := by omega
    rw [xorSegment]
    rw [hb]
    cases i with
    | zero => simp
    | succ i =>
      rw [List.getElem?_cons_succ, List.getElem?_cons_succ, hn, ih, show j + 1 + i = j + (i + 1) by omega]

/-- A valid header gives its length, any other gives none (43_rolling_iv.md R114). -/
theorem validateHeader_eq_some {h iv : Bytes4} {mask len : U16} :
    validateHeader h iv mask = some len ↔
      be16 h.b0 h.b1 ^^^ be16 iv.b2 iv.b3 = mask ∧ swap16 (be16 h.b0 h.b1 ^^^ be16 h.b2 h.b3) = len := by
  simp only [validateHeader]
  split <;> simp_all

theorem validateHeader_eq_none {h iv : Bytes4} {mask : U16} :
    validateHeader h iv mask = none ↔ be16 h.b0 h.b1 ^^^ be16 iv.b2 iv.b3 ≠ mask := by
  simp only [validateHeader]
  split <;> simp_all

/-- Exclusive OR works byte by byte. -/
theorem be16_xor (a b c d : Byte) : be16 a b ^^^ be16 c d = be16 (a ^^^ c) (b ^^^ d) := by
  exact BitVec.xor_append.symm ▸ rfl

theorem length_toList (q : Bytes4) : q.toList.length = 4 := rfl

theorem toList_injective {q r : Bytes4} (h : q.toList = r.toList) : q = r := by
  obtain ⟨a, b, c, d⟩ := q
  obtain ⟨e, f, g, i⟩ := r
  simpa [Bytes4.toList] using h

end Sys2Proof.Machine
end

