-- ==== Sys2Proof/Tests/Slice0.lean ====
section
/-! SUPPORT. The package's own tests, each with the vector of 95_test_vectors.md (or the rule) that its expected result
comes from, and for every statement with hypotheses a witness that meets them. -/

namespace Sys2Proof.Tests

set_option Elab.async false

open Sys2Proof Sys2Proof.Machine

/-! ## Helpers -/

/-- The state with the three operand registers written. -/
def withOperands (x y z : Nat) (s : State) : State :=
  { s with a0 := BitVec.ofNat 64 x, a1 := BitVec.ofNat 64 y, a2 := BitVec.ofNat 64 z }

/-- The state with bytes placed in XMEM. -/
def withBytes (a : Nat) (bs : List Byte) (s : State) : State := { s with xmem := writeBytes s.xmem a bs }

/-- The state with the reader window `[a, b)`, its cursor at `c`. -/
def withReader (a b c : Nat) (s : State) : State := { s with rd := ⟨a, b, c⟩ }

/-- The state with the writer window `[a, b)`, its cursor at `c`. -/
def withWriter (a b c : Nat) (s : State) : State := { s with wr := ⟨a, b, c⟩ }

/-- The state whose host's next actions are `acts`. -/
def withActions (acts : List HostAction) (s : State) : State := { s with hostQueue := acts }

/-- The IV `[01, 02, 03, 04]` and the mask `0x1E00` of vector 1.1. -/
def ivOf11 : RollingIv := ⟨⟨1, 2, 3, 4⟩, 0x1E00⟩

/-- The state of vector 1.1, after its SESS_INIT. -/
def opened : State :=
  { State.reset with
    enc := ivOf11, dec := ivOf11
    status := ⟨.ok, false, false, false, .opened, .awaitingHeader, .notClosed, false⟩ }

/-- `opened` with an emitted frame that the host has not released. -/
def holdingFrame : State := { opened with status := { opened.status with frame := true } }

/-- `opened` after a header of length 10: the reassembler waits for the payload (vector 5.13). -/
def awaitingTen : State :=
  { opened with
    status := { opened.status with rxst := .awaitingPayload }
    hdrBuf := ⟨4, 0, [0x1D, 0x04, 0x17, 0x04]⟩
    payBuf := ⟨10, 10, []⟩ }

/-- The payload `01 02 ... 0A`. -/
def payload10 : List Byte := [1, 2, 3, 4, 5, 6, 7, 8, 9, 10]

/-- The frame of vector 5.1. -/
def frame10 : List Byte := [0x1D, 0x04, 0x17, 0x04, 0x5E, 0x45, 0x15, 0x29, 0xA5, 0xBE, 0xED, 0x49, 0x11, 0xD7]

/-- The outcome is a next state that the test accepts. -/
def givesNext (o : Outcome) (test : State → Bool) : Bool :=
  match o with
  | .next t => test t
  | .fault _ => false
  | .refused _ => false

/-- A checked outcome as a statement about its next state. -/
theorem exists_next {o : Outcome} {P : State → Prop} [DecidablePred P]
    (h : givesNext o (fun t => decide (P t)) = true) : ∃ t, o = .next t ∧ P t := by
  cases o with
  | next t => exact ⟨t, rfl, of_decide_eq_true h⟩
  | fault _ => cases h
  | refused _ => cases h

/-! ## Well-formedness: one ill-formed term for each check -/

theorem test_wellFormed_refuses_csrRead : (Instr.csrRead 65536).wellFormed = false := by decide
theorem test_wellFormed_refuses_csrWrite : (Instr.csrWrite 65536).wellFormed = false := by decide
theorem test_wellFormed_refuses_rdPstr : (Instr.rdPstr true 65536).wellFormed = false := by decide
theorem test_wellFormed_refuses_wrPstr : (Instr.wrPstr 65536).wellFormed = false := by decide

/-! ## Decoding: words written out from 30_encoding.md R70 and R76 -/

/-- OPC 0x01 to 0x04 in bits [31:24]; the CSR number in bits [15:0]. -/
theorem test_decode_session :
    decodeWord 0b00000001000000000000000000000000 = .ok .sessInit ∧
    decodeWord 0b00000010000000000000000000000000 = .ok .sessClose ∧
    decodeWord 0b00000011000000000000000000010011 = .ok (.csrRead 0x013) ∧
    decodeWord 0b00000100000000001000000000000001 = .ok (.csrWrite 0x8001) := by decide

/-- OPC 0x10, 0x11 and 0x18. -/
theorem test_decode_ciphers :
    decodeWord 0b00010000000000000000000000000000 = .ok .tpEnc ∧
    decodeWord 0b00010001000000000000000000000000 = .ok .tpDec ∧
    decodeWord 0b00011000000000000000000000000000 = .ok .shuffle := by decide

/-- OPC 0x20 to 0x22, D in bit 18. -/
theorem test_decode_rolling_iv :
    decodeWord 0b00100000000000000000000000000000 = .ok (.ksXform .encrypt) ∧
    decodeWord 0b00100000000001000000000000000000 = .ok (.ksXform .decrypt) ∧
    decodeWord 0b00100001000000000000000000000000 = .ok .hdrBuild ∧
    decodeWord 0b00100010000000000000000000000000 = .ok .hdrCheck := by decide

/-- OPC 0x30 to 0x32. -/
theorem test_decode_framer :
    decodeWord 0b00110000000000000000000000000000 = .ok .txPack ∧
    decodeWord 0b00110001000000000000000000000000 = .ok .rxFeed ∧
    decodeWord 0b00110010000000000000000000000000 = .ok .rxRelease := by decide

/-- OPC 0x40 to 0x44, S in bit 19, W in bits [17:16], N in bits [15:0]. -/
theorem test_decode_reader :
    decodeWord 0b01000000000000000000000000000000 = .ok .rdWin ∧
    decodeWord 0b01000001000000000000000000000000 = .ok (.rdInt false .w1) ∧
    decodeWord 0b01000001000010010000000000000000 = .ok (.rdInt true .w2) ∧
    decodeWord 0b01000001000000100000000000000000 = .ok (.rdInt false .w4) ∧
    decodeWord 0b01000010000010000000000000000000 = .ok (.rdLstr true) ∧
    decodeWord 0b01000011000010000000000000001101 = .ok (.rdPstr true 13) ∧
    decodeWord 0b01000100000000000000000000000000 = .ok .rdFully := by decide

/-- OPC 0x48 to 0x4C, W in bits [17:16], N in bits [15:0]. -/
theorem test_decode_writer :
    decodeWord 0b01001000000000000000000000000000 = .ok .wrWin ∧
    decodeWord 0b01001001000000010000000000000000 = .ok (.wrInt .w2) ∧
    decodeWord 0b01001001000000110000000000000000 = .ok (.wrInt .w8) ∧
    decodeWord 0b01001010000000000000000000000000 = .ok .wrLstr ∧
    decodeWord 0b01001011000000000000000000001101 = .ok (.wrPstr 13) ∧
    decodeWord 0b01001100000000000000000000000000 = .ok .wrBytes := by decide

/-- The illegal words of V7, each for its own reason. -/
theorem test_decode_refuses_illegal_words :
    [0x00000000, 0xFF000000, 0x05000000].map (fun w => decodeTableWord 32 w) = [none, none, none] ∧
    decodeWord 0x00000000 = .error .unassignedOpcode ∧ decodeWord 0x41100000 = .error .reservedField ∧
    [0x10080000, 0x20080000, 0x02000001, 0x32010000, 0x49080000, 0x4B080000, 0x44040000].map decodeWord =
      List.replicate 7 (.error .unusedField) := by decide

/-! ## Functions of the rules, on the vectors -/

/-- FIPS-197 Appendix C, as 43_rolling_iv.md R108 lists it: keys of 16, 24 and 32 bytes. -/
theorem test_aes_fips_vectors :
    let plain : Block := ⟨⟨0x00, 0x11, 0x22, 0x33⟩, ⟨0x44, 0x55, 0x66, 0x77⟩, ⟨0x88, 0x99, 0xAA, 0xBB⟩,
      ⟨0xCC, 0xDD, 0xEE, 0xFF⟩⟩
    let key : Nat → List Byte := fun n => (List.range n).map (BitVec.ofNat 8)
    blockBytes (aes (key 16) plain) = [0x69, 0xC4, 0xE0, 0xD8, 0x6A, 0x7B, 0x04, 0x30, 0xD8, 0xCD, 0xB7, 0x80, 0x70,
      0xB4, 0xC5, 0x5A] ∧
    blockBytes (aes (key 24) plain) = [0xDD, 0xA9, 0x7C, 0xA4, 0x86, 0x4C, 0xDF, 0xE0, 0x6E, 0xAF, 0x70, 0xA0, 0xEC,
      0x0D, 0x71, 0x91] ∧
    blockBytes (aes (key 32) plain) = [0x8E, 0xA2, 0xB7, 0xCA, 0x51, 0x67, 0x45, 0xBF, 0xEA, 0xFC, 0x49, 0x90, 0x4B,
      0x49, 0x60, 0x89] := by decide +kernel

/-- V2: one byte, and the even round that the vector works by hand. -/
theorem test_transposition_rounds :
    evenRound [0x00] = [0xC7] ∧ oddRound [0xC7] = [0xCD] ∧ evenRound [1, 2, 3, 4] = [0x87, 0x64, 0x06, 0x35] ∧
    tpEncrypt [] = [] ∧ tpEncrypt [0x17] = [0x00] ∧ tpDecrypt [0xF0] = [0xFE] := by decide +kernel

/-- V2: 257 zero bytes, where the length byte wraps. -/
theorem test_transposition_length_wraps :
    (tpEncrypt (List.replicate 257 0)).take 4 = [0x78, 0x6D, 0xAE, 0xEE] ∧
    (tpEncrypt (List.replicate 257 0)).drop 253 = [0xA2, 0xBD, 0x25, 0xC3] := by decide +kernel

/-- V3: the accumulator after the first pass, and two results. -/
theorem test_shuffle_passes :
    shufflePass defaultParams defaultShuffleSeed 1 = ⟨0xF7, 0x20, 0x1F, 0x3F⟩ ∧
    shuffleStep defaultParams ⟨0x7B, 0xBF, 0xA4, 0x56⟩ = ⟨0x73, 0x35, 0x6F, 0x67⟩ ∧
    shuffleStep defaultParams ⟨0xFF, 0xFF, 0xFF, 0xFF⟩ = ⟨0x2D, 0x95, 0xC5, 0x76⟩ := by decide +kernel

/-- V4: the version mask. -/
theorem test_version_mask :
    versionMask 0x001E false = 0x1E00 ∧ versionMask 0x001E true = 0xE1FF ∧ versionMask 0x0053 false = 0x5300 ∧
    versionMask 0xFFFF true = 0x0000 := by decide

/-- The two keystream blocks of V4, cut by 43_rolling_iv.md R110 for a BLOCK_LEN of 24: the first segment is 20 bytes,
byte 20 starts again. -/
theorem test_keystream_restarts_at_the_segment :
    let out := (ivTransform { defaultParams with blockLen := 24 } (List.replicate 22 0) ⟨1, 2, 3, 4⟩).1
    out.drop 12 = [0x91, 0xA2, 0x66, 0xA3, 0xF8, 0x78, 0xC1, 0x78, 0xF0, 0xEE] := by decide +kernel

/-- V4: headers, byte by byte, for lengths whose two bytes differ. -/
theorem test_headers :
    constructHeader 0x102 ⟨1, 2, 3, 4⟩ 0xE1FF = ⟨0xE2, 0xFB, 0xE0, 0xFA⟩ ∧
    constructHeader 3 ⟨0x7B, 0xBF, 0xA4, 0x56⟩ 0x1E00 = ⟨0xBA, 0x56, 0xB9, 0x56⟩ ∧
    validateHeader ⟨0x1D, 0x04, 0x17, 0x04⟩ ⟨1, 2, 3, 5⟩ 0x1E00 = none := by decide

/-- E2 and V5: the bounded buffer. -/
theorem test_bounded_buffer :
    (appendFill ⟨9, 9, []⟩ payload10 0 10).2 = 9 ∧
    appendFill ⟨4, 2, [1, 2]⟩ payload10 2 5 = (⟨4, 0, [1, 2, 3, 4]⟩, 2) ∧
    (extractAndReset ⟨10, 3, [1, 2, 3, 4, 5, 6, 7]⟩ 5).1.length = 7 := by decide

/-- The merged word 0x78563412 of bytes 12 34 56 78, and its four bytes again (20_memory.md R55). -/
theorem test_register_byte_order :
    packBytes4 ⟨0x12, 0x34, 0x56, 0x78⟩ = 0x78563412 ∧ unpackBytes4 0x04030201 = ⟨1, 2, 3, 4⟩ ∧
    swap16 0x1234 = 0x3412 ∧ be16 0x12 0x34 = 0x1234 := by decide

/-- STATUS of vectors 1.10 and P5 step 6, and every field at its own place (10_state.md R25). -/
theorem test_status_word :
    statusWord opened.status = 0x800 ∧
    statusWord ⟨.ok, false, false, false, .closed, .awaitingHeader, .invalidHeader, false⟩ = 0x9000 ∧
    statusWord ⟨.csrAccess, true, true, true, .opened, .awaitingPayload, .zeroLength, true⟩ = 0x1EF09 := by decide

/-! ## One step each, on the vectors -/

/-- Vector 1.3: one complement flag of two. -/
theorem test_sessInit_one_flag :
    givesNext (exec .sessInit (withOperands 0x04030201 0x04030201 0x1001E State.reset)) (fun t =>
      t.enc == ⟨⟨1, 2, 3, 4⟩, 0xE1FF⟩ && t.dec == ivOf11 && t.status.sess == .opened) = true := by decide

/-- Vector 1.5. -/
theorem test_sessInit_refuses_open_session :
    givesNext (exec .sessInit (withOperands 1 1 0 opened)) (fun t =>
      t.status.cc == .sessionState && t.enc == ivOf11) = true := by decide

/-- Vectors 1.6 and 1.7. -/
theorem test_sessClose_closes_once :
    givesNext (exec .sessClose opened) (fun t =>
      t.status.sess == .closed && t.status.closeReason == .hostClose && t.events.closing && t.enc == RollingIv.zero &&
      givesNext (exec .sessClose { t with events := EventBits.none }) (fun u => !u.events.closing)) = true := by decide

/-- Vector 1.11: a mask, and an IV with byte 0 lowest. -/
theorem test_csrRead_iv_and_mask :
    givesNext (exec (.csrRead 0x010) opened) (fun t => t.r0 == 0x04030201) = true ∧
    givesNext (exec (.csrRead 0x013) opened) (fun t => t.r0 == 0x1E00) = true := by decide

/-- Vector 1.14: a reserved number. -/
theorem test_csrRead_refuses_reserved :
    givesNext (exec (.csrRead 0x005) opened) (fun t => t.status.cc == .csrAccess && t.r0 == 0) = true := by decide

/-- Vector 1.19. -/
theorem test_csrWrite_clears_events :
    givesNext (exec (.csrWrite 0x001) (withOperands 1 0 0 { opened with events := ⟨true, true⟩ })) (fun t =>
      t.events == ⟨false, true⟩) = true := by decide

/-- Vectors 1.17 and 1.18. -/
theorem test_csrWrite_bounds_rxDst :
    givesNext (exec (.csrWrite 0x003) (withOperands 0x10001 0 0 State.reset)) (fun t => t.rxDst == 0x10001) = true ∧
    givesNext (exec (.csrWrite 0x003) (withOperands 0x10002 0 0 State.reset)) (fun t =>
      t.rxDst == 0 && t.status.cc == .boundsViolation) = true := by decide

/-- V2: ten bytes in place, the bytes beside them untouched. -/
theorem test_tpEnc_in_place :
    givesNext (exec .tpEnc (withOperands 1 10 0 (withBytes 0 ([0xAA] ++ payload10 ++ [0xBB]) State.reset))) (fun t =>
      readBytes t.xmem 0 12 == [0xAA, 0xAE, 0xAB, 0xB1, 0xFB, 0xED, 0x2B, 0x3B, 0x76, 0xD1, 0x22, 0xBB]) = true := by
  decide +kernel

/-- 41_transposition.md R97, its example. -/
theorem test_tpDec_example :
    givesNext (exec .tpDec (withOperands 0 4 0 (withBytes 0 [0xAE, 0xE1, 0x56, 0x4F] State.reset))) (fun t =>
      readBytes t.xmem 0 4 == [1, 2, 3, 4]) = true := by decide +kernel

/-- V3: the command's byte order, and a zero input. -/
theorem test_shuffle_results :
    givesNext (exec .shuffle (withOperands 0x04030201 0 0 State.reset)) (fun t => t.r0 == 0x56A4BF7B) = true ∧
    givesNext (exec .shuffle (withOperands 0 0 0 State.reset)) (fun t => t.r0 == 0xC764BB11) = true := by decide +kernel

/-- V4: KS_XFORM.e at 0x40. -/
theorem test_ksXform_encrypt :
    givesNext (exec (.ksXform .encrypt) (withOperands 0x40 8 0
        (withBytes 0x40 [0x11, 0x12, 0x13, 0x14, 0x15, 0x16, 0x17, 0x18] opened))) (fun t =>
      readBytes t.xmem 0x40 8 == [0xE1, 0xFC, 0xB7, 0xC6, 0x5D, 0x83, 0xC1, 0x27] &&
      t.enc.iv == ⟨0x7B, 0xBF, 0xA4, 0x56⟩ && t.dec.iv == ⟨1, 2, 3, 4⟩) = true := by decide +kernel

/-- V4: no byte, and the IV of the other side still advances. -/
theorem test_ksXform_decrypt_empty :
    givesNext (exec (.ksXform .decrypt) opened) (fun t =>
      t.dec.iv == ⟨0x7B, 0xBF, 0xA4, 0x56⟩ && t.enc.iv == ⟨1, 2, 3, 4⟩ && t.xmem == []) = true := by decide +kernel

/-- V4: HDR_BUILD. -/
theorem test_hdrBuild_lengths :
    givesNext (exec .hdrBuild (withOperands 0xFFFF 0 0 opened)) (fun t => t.r0 == 0xFBE2041D) = true ∧
    givesNext (exec .hdrBuild (withOperands 0x10000 0 0 opened)) (fun t => t.status.cc == .headerLength) = true := by
  decide

/-- V4: HDR_CHECK. -/
theorem test_hdrCheck_validity :
    givesNext (exec .hdrCheck (withOperands 0x041C041D 0 0 opened)) (fun t => t.status.v && t.r0 == 1) = true ∧
    givesNext (exec .hdrCheck (withOperands 0x0417051D 0 0 opened)) (fun t =>
      !t.status.v && t.r0 == 0 && t.status.cc == .ok) = true := by decide

/-- Vector 5.1. -/
theorem test_txPack_frame :
    givesNext (exec .txPack (withOperands 0 10 0x100 (withBytes 0 payload10 opened))) (fun t =>
      readBytes t.xmem 0x100 14 == frame10 && t.r0 == 14 && t.enc.iv == ⟨0x7B, 0xBF, 0xA4, 0x56⟩) = true := by
  decide +kernel

/-- Vectors 5.5 and 5.7: the order of the checks. -/
theorem test_txPack_order_of_checks :
    givesNext (exec .txPack (withOperands 0 1 0x1FFFD opened)) (fun t => t.status.cc == .boundsViolation) = true ∧
    givesNext (exec .txPack (withOperands 0 1 0x1FFFF State.reset)) (fun t => t.status.cc == .sessionState) = true := by
  decide

/-- Vector 5.9: two frames in one chunk, the first one emitted. -/
theorem test_rxFeed_emits_one_frame :
    givesNext (exec .rxFeed (withOperands 0x100 21 0 (withBytes 0x100
        (frame10 ++ [0xBA, 0x56, 0xB9, 0x56, 0x5C, 0x77, 0xE0]) { opened with rxDst := 0x1000 }))) (fun t =>
      t.r0 == 14 && t.status.frame && t.events.frame && readBytes t.xmem 0x1000 10 == payload10 &&
      t.rd == ⟨0x1000, 0x100A, 0x1000⟩ && t.dec.iv == ⟨0x7B, 0xBF, 0xA4, 0x56⟩) = true := by decide +kernel

/-- Vectors 5.13 and 5.15: half a frame, and a header of length 0. -/
theorem test_rxFeed_headers :
    givesNext (exec .rxFeed (withOperands 0x102 2 0 (withBytes 0x100 frame10
        { opened with hdrBuf := ⟨4, 2, [0x1D, 0x04]⟩ }))) (fun t =>
      t.r0 == 2 && t.status.rxst == .awaitingPayload && t.hdrBuf.free == 0 && t.payBuf == ⟨10, 10, []⟩) = true ∧
    givesNext (exec .rxFeed (withOperands 0x100 4 0 (withBytes 0x100 [0x1D, 0x04, 0x1D, 0x04] opened))) (fun t =>
      t.status.cc == .protocolViolation && t.status.closeReason == .zeroLength && t.r0 == 0) = true := by decide

/-- Vector 5.18. -/
theorem test_rxRelease :
    givesNext (exec .rxRelease (withReader 0x1000 0x100A 0x1002 { holdingFrame with events := ⟨true, false⟩ })) (fun t =>
      !t.status.frame && t.rd == Window.empty && t.events.frame) = true := by decide

/-- P1 step 8, and vector 6.16. -/
theorem test_rdWin :
    givesNext (exec .rdWin (withOperands 0x200 16 0 State.reset)) (fun t => t.rd == ⟨0x200, 0x210, 0x200⟩) = true ∧
    givesNext (exec .rdWin (withOperands 0x1FFFF 2 0 State.reset)) (fun t => t.status.cc == .boundsViolation) = true := by
  decide

/-- Vector 6.4. -/
theorem test_rdInt_eight_bytes :
    givesNext (exec (.rdInt false .w8) (withReader 0x320 0x328 0x320
        (withBytes 0x320 [1, 2, 3, 4, 5, 6, 7, 8] State.reset))) (fun t =>
      t.r0 == 0x0807060504030201 && t.status.ok && t.rd.pos == 0x328) = true := by decide

/-- Vectors 6.2 and 6.3: the two underruns. -/
theorem test_rdInt_underruns :
    givesNext (exec (.rdInt true .w2) { withReader 0 4 3 State.reset with r0 := 7 }) (fun t =>
      t.r0 == 0 && !t.status.ok && t.status.cc == .ok && t.rd.pos == 3) = true ∧
    givesNext (exec (.rdInt false .w2) { withReader 0 4 3 State.reset with r0 := 7 }) (fun t =>
      t.r0 == 7 && t.status.cc == .endOfStream) = true := by decide

/-- Vectors 6.6 and 6.8. -/
theorem test_rdLstr :
    givesNext (exec (.rdLstr false) (withReader 0x200 0x205 0x200
        (withBytes 0x200 [3, 0, 0x41, 0x42, 0x43] State.reset))) (fun t =>
      t.r0 == 0x0000000300000202 && t.rd.pos == 0x205) = true ∧
    givesNext (exec (.rdLstr true) (withReader 0x200 0x204 0x200 (withBytes 0x200 [5, 0, 0x41, 0x42] State.reset)))
      (fun t => t.r0 == 0 && !t.status.ok && t.rd.pos == 0x200) = true := by decide

/-- Vectors 6.9 and 6.10. -/
theorem test_rdPstr :
    givesNext (exec (.rdPstr false 13) (withReader 0x300 0x30D 0x300 (withBytes 0x300
        [0x61, 0x64, 0x6D, 0x69, 0x6E, 0, 0xFF, 0xFF, 0, 0, 0, 0, 0] State.reset))) (fun t =>
      t.r0 == 0x0000000500000300 && t.rd.pos == 0x30D) = true ∧
    givesNext (exec (.rdPstr false 4) (withReader 0x310 0x314 0x310
        (withBytes 0x310 [0x61, 0x62, 0x63, 0x64] State.reset))) (fun t => t.r0 == 0x0000000300000310) = true := by decide

/-- Vector 6.14. -/
theorem test_rdFully :
    givesNext (exec .rdFully (withReader 0x1000 0x100A 0x1002 State.reset)) (fun t =>
      t.r0 == 0x0000000800001002 && t.rd.pos == 0x100A && t.status.ok) = true := by decide

/-- 45_codec.md R138: "on an empty remainder it gives length 0", also where the window ends at 2^32. -/
theorem test_rdFully_empty_at_top :
    ∃ t, exec .rdFully (withReader 0 0x100000000 0x100000000 State.reset) = .next t ∧ t.r0.toNat / 2 ^ 32 = 0 :=
  ⟨_, rfl, descriptor_length (by decide)⟩

/-- P1 step 1. -/
theorem test_wrWin :
    givesNext (exec .wrWin (withOperands 0x200 64 0 State.reset)) (fun t => t.wr == ⟨0x200, 0x240, 0x200⟩) = true := by
  decide

/-- Vectors 6.19 and 6.20. -/
theorem test_wrInt :
    givesNext (exec (.wrInt .w4) (withOperands 0x12345678 0 0 (withWriter 0x400 0x408 0x402 State.reset))) (fun t =>
      readBytes t.xmem 0x402 4 == [0x78, 0x56, 0x34, 0x12] && t.r0 == 6) = true ∧
    givesNext (exec (.wrInt .w8) (withOperands 1 0 0 (withWriter 0x400 0x408 0x402 State.reset))) (fun t =>
      t.status.cc == .writeOverflow && t.wr.pos == 0x402 && t.xmem == []) = true := by decide

/-- Vector 6.21, and a length above 0xFFFF (6.23). -/
theorem test_wrLstr :
    givesNext (exec .wrLstr (withOperands 0x10 3 0 (withWriter 0x400 0x408 0x400
        (withBytes 0x10 [0x41, 0x42, 0x43] State.reset)))) (fun t =>
      readBytes t.xmem 0x400 5 == [3, 0, 0x41, 0x42, 0x43] && t.r0 == 5) = true ∧
    givesNext (exec .wrLstr (withOperands 0x10 0x10000 0 (withWriter 0x400 0x408 0x400 State.reset))) (fun t =>
      t.status.cc == .boundsViolation) = true := by decide

/-- Vectors 6.24 and 6.27. -/
theorem test_wrPstr :
    givesNext (exec (.wrPstr 13) (withOperands 0x20 5 0 (withWriter 0x400 0x410 0x400
        (withBytes 0x20 [0x61, 0x64, 0x6D, 0x69, 0x6E, 0x6F] (withBytes 0x400 (List.replicate 16 0xFF) State.reset)))))
      (fun t => readBytes t.xmem 0x400 14 == [0x61, 0x64, 0x6D, 0x69, 0x6E, 0, 0, 0, 0, 0, 0, 0, 0, 0xFF] &&
        t.r0 == 13) = true ∧
    givesNext (exec (.wrPstr 0) State.reset) (fun t => t.status.cc == .boundsViolation) = true := by decide

/-- Vector 6.28, with a source that overlaps the window (20_memory.md R60). -/
theorem test_wrBytes_overlapping :
    givesNext (exec .wrBytes (withOperands 0x3FE 4 0 (withWriter 0x400 0x408 0x400
        (withBytes 0x3FE [1, 2, 3, 4] State.reset)))) (fun t =>
      readBytes t.xmem 0x3FE 6 == [1, 2, 1, 2, 3, 4] && t.r0 == 4) = true := by decide

/-! ## Steps and memory -/

/-- The table word of SHUFFLE runs as the next step, and BUSY is 0 after it. -/
theorem test_step_runs_fetch_word :
    givesNext (step ((withOperands 0x04030201 0 0 State.reset).withFetchWord 32 0x18000000)) (fun t =>
      t.r0 == 0x56A4BF7B && !t.status.busy && t.cmd == none && t.hostQueue == []) = true := by decide +kernel

/-- V7: an illegal word in a state where KS_XFORM would end with SESSION_STATE. -/
theorem test_step_illegal_word :
    givesNext (step (State.reset.withFetchWord 32 0x20080000)) (fun t => t.status.cc == .illegalCommand) = true := by
  decide

/-- Writing what an unlisted address reads as removes the entry (entry 3). -/
theorem test_memory_is_canonical :
    writeBytes (writeBytes [] 5 [1, 2, 3]) 6 [0] = [(5, 1), (7, 3)] ∧ Memory.wf (writeBytes [] 5 [1, 0, 3]) := by decide

/-! ## Witnesses: states and operands that meet the hypotheses of each statement, one for each clause -/

/-- The invariant holds of `opened` with operands and bytes that lie inside XMEM. -/
theorem opened_inv (x y z a : Nat) (bs : List Byte) (h : a + bs.length ≤ 131072) :
    Inv (withOperands x y z (withBytes a bs opened)) where
  params_legal :=
    have hp : defaultParams.Legal := ⟨by decide, by decide, by decide, Or.inr (Or.inr rfl), by decide +kernel⟩
    hp
  xmem_wf := wf_writeBytes (m := []) (by decide) a bs
  xmem_inside := writeBytes_inside (m := []) (n := 131072) nofun h
  reader_inside := ⟨Nat.le_refl 0, Nat.le_refl 0, Nat.zero_le _⟩
  writer_inside := ⟨Nat.le_refl 0, Nat.le_refl 0, Nat.zero_le _⟩
  rxDst_fits := by show (0#32).toNat + 65535 ≤ 131072; decide
  reassembler := ⟨⟨Nat.le_refl 4, rfl⟩, rfl, ⟨Nat.le_refl 0, rfl⟩, Nat.succ_pos 3, rfl⟩
  session := rfl
  not_busy := rfl
  no_cmd := rfl

theorem witness_OpcodeRowsMatchDecoder :
    (∃ r ∈ opcodeRows, ∃ w : U32, w &&& r.maskBits = r.matchBits) ∧
    (∃ w : U32, ∀ r ∈ opcodeRows, w &&& r.maskBits ≠ r.matchBits) :=
  ⟨⟨⟨"CSR_READ", 0x03000000, 0xFFFF0000⟩, by decide, 0x0300FFFF, by decide⟩, 0x41100000, by decide⟩

theorem witness_StepRunsDecodedCommand :
    ∃ (s : State) (w : U32) (rest : List HostAction) (i : Instr), s.hostQueue = .writeCmd w :: rest ∧ s.status.busy = false ∧ decodeWord w = .ok i :=
  ⟨withActions [.writeCmd 0x4308000D, .observeIrq] State.reset, _, _, .rdPstr true 13, rfl, rfl, by decide⟩

theorem witness_IllegalWordHasNoOtherEffect :
    ∃ (s : State) (w : U32) (rest : List HostAction), s.hostQueue = .writeCmd w :: rest ∧ s.status.busy = false ∧
      ∀ r ∈ opcodeRows, w &&& r.maskBits ≠ r.matchBits :=
  ⟨withActions [.writeCmd 0x20080000] opened, 0x20080000, [], rfl, rfl, by decide⟩

theorem witness_BlockIdlesWithoutHostAction : ∃ s : State, s.hostQueue = [] := ⟨opened, rfl⟩

theorem witness_HostActionsReachTheirTarget :
    (∃ (s : State) (a : HostAction) (rest : List HostAction), s.hostQueue = a :: rest ∧ s.status.busy = true) ∧
    (∃ (s : State) (v : U64) (rest : List HostAction), s.hostQueue = .writeOperand .a0 v :: rest ∧ s.status.busy = false) ∧
    (∃ (s : State) (v : U64) (rest : List HostAction), s.hostQueue = .writeOperand .a1 v :: rest ∧ s.status.busy = false) ∧
    (∃ (s : State) (v : U64) (rest : List HostAction), s.hostQueue = .writeOperand .a2 v :: rest ∧ s.status.busy = false) ∧
    (∃ (s : State) (v : U64) (rest : List HostAction), s.hostQueue = .writeResult v :: rest ∧ s.status.busy = false) ∧
    (∃ (s : State) (rest : List HostAction), s.hostQueue = .readOperand .a0 :: rest ∧ s.status.busy = false) ∧
    (∃ (s : State) (rest : List HostAction), s.hostQueue = .readOperand .a1 :: rest ∧ s.status.busy = false) ∧
    (∃ (s : State) (rest : List HostAction), s.hostQueue = .readOperand .a2 :: rest ∧ s.status.busy = false) ∧
    (∃ (s : State) (rest : List HostAction), s.hostQueue = .readResult :: rest ∧ s.status.busy = false) ∧
    (∃ (s : State) (rest : List HostAction), s.hostQueue = .observeIrq :: rest ∧ s.status.busy = false) ∧
    (∃ (s : State) (x : Nat) (n : Nat) (rest : List HostAction), s.hostQueue = .readXmem x n :: rest ∧ s.status.busy = false ∧ x + n = s.params.xmemSize) ∧
    (∃ (s : State) (x : Nat) (n : Nat) (rest : List HostAction), s.hostQueue = .readXmem x n :: rest ∧ s.status.busy = false ∧ x + n = s.params.xmemSize + 1) ∧
    (∃ (s : State) (x : Nat) (bs : List Byte) (rest : List HostAction), s.hostQueue = .writeXmem x bs :: rest ∧ s.status.busy = false ∧
      x + bs.length = s.params.xmemSize) ∧
    (∃ (s : State) (x : Nat) (bs : List Byte) (rest : List HostAction), s.hostQueue = .writeXmem x bs :: rest ∧ s.status.busy = false ∧
      x + bs.length = s.params.xmemSize + 1) :=
  ⟨⟨withActions [.reset] { opened with status := { opened.status with busy := true } }, _, _, rfl, rfl⟩,
    ⟨withActions [.writeOperand .a0 1] opened, _, _, rfl, rfl⟩, ⟨withActions [.writeOperand .a1 1] opened, _, _, rfl, rfl⟩,
    ⟨withActions [.writeOperand .a2 1] opened, _, _, rfl, rfl⟩, ⟨withActions [.writeResult 1] opened, _, _, rfl, rfl⟩,
    ⟨withActions [.readOperand .a0] opened, _, rfl, rfl⟩, ⟨withActions [.readOperand .a1] opened, _, rfl, rfl⟩,
    ⟨withActions [.readOperand .a2] opened, _, rfl, rfl⟩, ⟨withActions [.readResult] opened, _, rfl, rfl⟩,
    ⟨withActions [.observeIrq] opened, _, rfl, rfl⟩, ⟨withActions [.readXmem 131070 2] opened, _, _, _, rfl, rfl, by decide⟩,
    ⟨withActions [.readXmem 131070 3] opened, _, _, _, rfl, rfl, by decide⟩,
    ⟨withActions [.writeXmem 131071 [7]] opened, _, _, _, rfl, rfl, by decide⟩,
    ⟨withActions [.writeXmem 131072 [7]] opened, _, _, _, rfl, rfl, by decide⟩⟩

theorem witness_HostXmemWriteStoresItsBytes :
    ∃ (s : State) (x : Nat) (bs : List Byte) (rest : List HostAction), s.hostQueue = .writeXmem x bs :: rest ∧ s.status.busy = false ∧
      x + bs.length = s.params.xmemSize ∧ Memory.wf s.xmem :=
  ⟨withActions [.writeXmem 131070 [0, 7]] (withBytes 131070 [9] opened), _, _, _, rfl, rfl, by decide, by decide⟩

theorem witness_HostResetRestoresResetValues :
    ∃ (s : State) (rest : List HostAction), s.hostQueue = .reset :: rest ∧ s.status.busy = false :=
  ⟨withActions [.reset] holdingFrame, _, rfl, rfl⟩

theorem witness_StepKeepsInv : ∃ (s : State) (t : State), Inv s ∧ step s = .next t :=
  ⟨withActions [.writeCmd 0x02000000] (withOperands 0 0 0 (withBytes 0 payload10 opened)), _,
    { opened_inv 0 0 0 0 payload10 (by decide) with }, rfl⟩

theorem witness_OperandRegistersNeverWritten :
    ∃ (i : Instr) (s : State) (t : State), exec i s = .next t ∧ i ≠ .csrWrite 0x003 ∧ i ≠ .csrWrite 0x002 :=
  ⟨.sessClose, opened, _, rfl, by decide, by decide⟩

theorem witness_UpperOperandBitsIgnored :
    ∃ (i : Instr) (s : State) (t : State), ∃ x y z : U64, i ≠ .wrInt .w8 ∧ x ≠ s.a0 ∧ y ≠ s.a1 ∧ z ≠ s.a2 ∧
      x.toNat % 2 ^ 32 = s.a0.toNat % 2 ^ 32 ∧ y.toNat % 2 ^ 32 = s.a1.toNat % 2 ^ 32 ∧
      z.toNat % 2 ^ 32 = s.a2.toNat % 2 ^ 32 ∧ exec i s = .next t :=
  ⟨.sessInit, withOperands 1 2 3 State.reset, _, 0x100000001, 0x8000000000000002, 0x100000003, by decide, by decide,
    by decide, by decide, by decide, by decide, by decide, rfl⟩

theorem witness_OnlyNamedCommandsTouchXmem :
    (∃ (i : Instr) (s : State) (t : State), exec i s = .next t ∧ touchesXmem i = false) ∧ (∃ (i : Instr) (s : State) (t : State), exec i s = .next t ∧ readsXmemOnly i = true) :=
  ⟨⟨.rdFully, opened, _, rfl, rfl⟩, .rdLstr false, withReader 0 2 0 opened, _, rfl, rfl⟩

theorem witness_RaiseHasNoOtherEffect :
    (∃ (i : Instr) (s : State) (t : State), exec i s = .next t ∧ t.status.cc ≠ .ok ∧ t.status.cc ≠ .endOfStream ∧ t.status.cc ≠ .protocolViolation) ∧
    (∃ (i : Instr) (s : State) (t : State), exec i s = .next t ∧ t.status.cc = .endOfStream) ∧
    (∃ (i : Instr) (s : State) (t : State), exec i s = .next t ∧ t.status.cc = .protocolViolation) :=
  ⟨⟨.tpEnc, withOperands 0x1FFFF 2 0 opened, exists_next (by decide)⟩,
    ⟨.rdInt false .w1, State.reset, exists_next (by decide)⟩,
    ⟨.rxFeed, withOperands 0 4 0 opened, exists_next (by decide)⟩⟩

theorem witness_CompletionCodesAsListed :
    (∃ (i : Instr) (s : State) (t : State), exec i s = .next t ∧ t.status.cc = .ok) ∧ (∃ (i : Instr) (s : State) (t : State), exec i s = .next t ∧ t.status.cc ≠ .ok) :=
  ⟨⟨.shuffle, State.reset, exists_next (by decide +kernel)⟩, .rxFeed, State.reset, exists_next (by decide)⟩

theorem witness_FlagsWrittenOnlyByNamedCommands :
    (∃ (i : Instr) (s : State) (t : State), exec i s = .next t ∧ (∀ safe width, i ≠ .rdInt safe width) ∧ (∀ safe, i ≠ .rdLstr safe) ∧
      (∀ safe n, i ≠ .rdPstr safe n) ∧ i ≠ .rdFully ∧ i ≠ .hdrCheck ∧ i ≠ .sessInit ∧ i ≠ .rxFeed ∧ i ≠ .rxRelease) ∧
    (∃ (i : Instr) (s : State) (t : State), exec i s = .next t ∧ t.status.cc ≠ .ok) :=
  ⟨⟨.sessClose, opened, _, rfl, nofun, nofun, nofun, by decide, by decide, by decide, by decide, by decide⟩,
    .rdInt false .w8, opened, exists_next (by decide)⟩

theorem witness_IvChangesOnlyByShuffleInitOrClose : ∃ (i : Instr) (s : State) (t : State), exec i s = .next t ∧ t.enc.iv ≠ s.enc.iv :=
  ⟨.ksXform .encrypt, opened, exists_next (by decide +kernel)⟩

theorem witness_MasksFixedWhileSessionOpen :
    ∃ (i : Instr) (s : State) (t : State), exec i s = .next t ∧ s.status.sess = .opened ∧ t.status.sess = .opened :=
  ⟨.rxRelease, holdingFrame, _, rfl, rfl, rfl⟩

theorem witness_SessionMovesOnlyAsListed :
    (∃ (s : State) (t : State), exec .sessInit s = .next t ∧ t.status.cc = .ok) ∧
    (∃ s : State, s.status.sess = .opened) ∧ (∃ s : State, s.status.sess ≠ .opened) ∧
    (∃ (s : State) (t : State), exec .sessInit s = .next t ∧ t.status.cc = .sessionState) ∧
    (∃ (s : State) (t : State), exec .hdrCheck s = .next t ∧ t.status.cc = .sessionState) :=
  ⟨⟨withOperands 1 1 0 State.reset, exists_next (by decide)⟩, ⟨opened, rfl⟩, ⟨State.reset, by decide⟩,
    ⟨opened, exists_next (by decide)⟩, State.reset, exists_next (by decide)⟩

theorem witness_EventsMoveOnlyAsListed :
    (∃ (i : Instr) (s : State) (t : State), exec i s = .next t ∧ i ≠ .csrWrite 0x001 ∧ s.events.frame = true ∧ s.events.closing = true) ∧
    (∃ (i : Instr) (s : State) (t : State), exec i s = .next t ∧ s.events.frame = false ∧ t.events.frame = true ∧ s.status.frame = false ∧
      t.status.frame = true) ∧
    (∃ (i : Instr) (s : State) (t : State), exec i s = .next t ∧ s.events.closing = false ∧ t.events.closing = true ∧ s.status.sess = .opened ∧
      t.status.sess = .closed) :=
  ⟨⟨.csrWrite 0x002, { opened with events := ⟨true, true⟩ }, _, rfl, by decide, rfl, rfl⟩,
    ⟨.rxFeed, withOperands 0x100 5 0 (withBytes 0x100 [0x1D, 0x04, 0x1C, 0x04] opened),
      exists_next (P := fun t => opened.events.frame = false ∧ t.events.frame = true ∧ opened.status.frame = false ∧
        t.status.frame = true) (by decide +kernel)⟩,
    ⟨.sessClose, opened, _, rfl, rfl, rfl, rfl, rfl⟩⟩

theorem witness_ResultRegisterWrittenAsListed :
    (∃ (i : Instr) (s : State) (t : State), exec i s = .next t ∧ writesR0 i = false) ∧
    (∃ (i : Instr) (s : State) (t : State), exec i s = .next t ∧ writesR0 i = true ∧ t.status.cc ≠ .ok) :=
  ⟨⟨.rdWin, opened, _, rfl, rfl⟩, .wrInt .w1, State.reset,
    exists_next (P := fun t => writesR0 (.wrInt .w1) = true ∧ t.status.cc ≠ .ok) (by decide)⟩

theorem witness_SessInitOpensSession :
    (∃ s : State, s.status.sess = .opened) ∧
    (∃ s : State, s.status.sess ≠ .opened ∧ s.a0.toNat % 2 ^ 32 = 0 ∧ s.a1.toNat % 2 ^ 32 ≠ 0) ∧
    (∃ s : State, s.status.sess ≠ .opened ∧ s.a0.toNat % 2 ^ 32 ≠ 0 ∧ s.a1.toNat % 2 ^ 32 = 0) ∧
    (∃ s : State, s.status.sess ≠ .opened ∧ s.a0.toNat % 2 ^ 32 ≠ 0 ∧ s.a1.toNat % 2 ^ 32 ≠ 0) :=
  ⟨⟨opened, rfl⟩, ⟨withOperands 0x100000000 1 0 State.reset, by decide⟩, ⟨withOperands 1 0 0 State.reset, by decide⟩,
    withOperands 1 0xFFFFFFFF 0 State.reset, by decide⟩

theorem witness_SessCloseClosesOnce :
    (∃ s : State, s.status.sess ≠ .opened) ∧ (∃ s : State, s.status.sess = .opened) :=
  ⟨⟨State.reset, by decide⟩, opened, rfl⟩

theorem witness_CsrReadGivesMappedValue :
    (∃ s : State, s.params.Legal) ∧
    (∃ c : Nat, c < 2 ^ 16 ∧ c ∉ [0x000, 0x001, 0x002, 0x003, 0x010, 0x011, 0x012, 0x013, 0x020, 0x021, 0x022, 0x028,
      0x029, 0x02A, 0x030, 0x031, 0x032, 0x0F0, 0x0F1]) ∧
    (∃ v : Nat, v < 2 ^ 32) ∧ (∃ v : Nat, v ≤ 2 ^ 32) :=
  ⟨⟨opened, (opened_inv 0 0 0 0 [] (by decide)).params_legal⟩, ⟨0xFFFF, by decide⟩, ⟨2 ^ 32 - 1, by decide⟩,
    2 ^ 32, by decide⟩

theorem witness_CsrWriteFollowsAccess :
    (∃ s : State, s.a0.toNat % 2 ^ 32 + 65535 = s.params.xmemSize) ∧
    (∃ s : State, s.params.xmemSize + 1 = s.a0.toNat % 2 ^ 32 + 65535) ∧
    (∃ c : Nat, c < 2 ^ 16 ∧ c ≠ 0x001 ∧ c ≠ 0x002 ∧ c ≠ 0x003) :=
  ⟨⟨withOperands 0x10001 0 0 State.reset, by decide⟩, ⟨withOperands 0x10002 0 0 State.reset, by decide⟩, 0x000,
    by decide⟩

theorem witness_TranspositionActsInPlace :
    (∃ s : State, s.params.xmemSize + 1 = operand0 s + operand1 s) ∧
    (∃ s : State, operand0 s + operand1 s = s.params.xmemSize ∧ operand1 s = 0) ∧
    (∃ s : State, operand0 s + operand1 s = s.params.xmemSize ∧ operand1 s = 1) :=
  ⟨⟨withOperands 0x1FFFF 2 0 State.reset, by decide⟩, ⟨withOperands 0x20000 0 0 State.reset, by decide⟩,
    withOperands 0x1FFFF 1 0 State.reset, by decide⟩

theorem witness_TranspositionRoundTrip :
    (∃ (d : List Byte) (j : Nat), j < d.length ∧ j = 0) ∧ (∃ (d : List Byte) (j : Nat), j < d.length ∧ j = 9) :=
  ⟨⟨payload10, 0, by decide⟩, payload10, 9, by decide⟩

theorem witness_KsXformTransformsAndAdvances :
    (∃ s : State, s.status.sess ≠ .opened) ∧
    (∃ s : State, s.status.sess = .opened ∧ s.params.xmemSize + 1 = operand0 s + operand1 s) ∧
    (∃ s : State, s.status.sess = .opened ∧ operand0 s + operand1 s = s.params.xmemSize) :=
  ⟨⟨State.reset, by decide⟩, ⟨withOperands 0x1FFFF 2 0 opened, by decide⟩, withOperands 0x1FFFF 1 0 opened, by decide⟩

/-- The defaults with the smallest BLOCK_LEN, whose first segment is one byte. -/
def shortBlocks : Params := { defaultParams with blockLen := 5 }

theorem shortBlocks_legal : shortBlocks.Legal :=
  ⟨by decide, by decide, by decide, Or.inr (Or.inr rfl), by decide +kernel⟩

theorem witness_TransformKeystreamClosedForm :
    ∃ (p : Params) (d : List Byte), p.Legal ∧ 0 < d.length ∧ p.blockLen - 4 < d.length :=
  ⟨shortBlocks, payload10, shortBlocks_legal, by decide⟩

theorem witness_TransformLaws :
    ∃ (p : Params) (d : List Byte) (k : Nat), p.Legal ∧ k = d.length ∧ p.blockLen - 4 < d.length :=
  ⟨shortBlocks, [1, 2], 2, shortBlocks_legal, by decide⟩

theorem witness_HdrBuildGivesHeader :
    (∃ s : State, s.status.sess ≠ .opened) ∧
    (∃ s : State, s.status.sess = .opened ∧ operand0 s = 1) ∧ (∃ s : State, s.status.sess = .opened ∧ operand0 s = 0x10000) ∧
    (∃ s : State, s.status.sess = .opened ∧ operand0 s = 2) ∧ (∃ s : State, s.status.sess = .opened ∧ operand0 s = 0xFFFF) :=
  ⟨⟨State.reset, by decide⟩, ⟨withOperands 1 0 0 opened, by decide⟩, ⟨withOperands 0x10000 0 0 opened, by decide⟩,
    ⟨withOperands 2 0 0 opened, by decide⟩, withOperands 0xFFFF 0 0 opened, by decide⟩

theorem witness_HdrCheckReportsValidity :
    (∃ s : State, s.status.sess ≠ .opened) ∧
    (∃ s : State, s.status.sess = .opened ∧
      (registerBytes s.a0).b0 ^^^ s.dec.iv.b2 = s.dec.mask.extractLsb' 8 8 ∧
      (registerBytes s.a0).b1 ^^^ s.dec.iv.b3 = s.dec.mask.extractLsb' 0 8) ∧
    (∃ s : State, s.status.sess = .opened ∧
      ¬ ((registerBytes s.a0).b0 ^^^ s.dec.iv.b2 = s.dec.mask.extractLsb' 8 8 ∧
        (registerBytes s.a0).b1 ^^^ s.dec.iv.b3 = s.dec.mask.extractLsb' 0 8)) :=
  ⟨⟨State.reset, by decide⟩, ⟨withOperands 0x0417041D 0 0 opened, by decide⟩, withOperands 0x0417051D 0 0 opened,
    by decide⟩

theorem witness_HeaderLaws :
    ∃ (len mask mask' : U16) (iv iv' iv'' : Bytes4), 2 = len.toNat ∧ mask' ≠ mask ∧ iv'.b2 = iv.b2 ∧ iv'.b3 = iv.b3 ∧
      iv''.b2 = iv.b2 ∧ iv''.b3 ≠ iv.b3 :=
  ⟨2, 0x1E00, 0xE1FF, ⟨1, 2, 3, 4⟩, ⟨9, 9, 3, 4⟩, ⟨1, 2, 3, 5⟩, by decide⟩

theorem witness_TxPackWritesFrame :
    (∃ s : State, s.status.sess ≠ .opened) ∧
    (∃ s : State, s.status.sess = .opened ∧ s.params.xmemSize + 1 = operand0 s + operand1 s) ∧
    (∃ s : State, s.status.sess = .opened ∧ operand0 s + operand1 s ≤ s.params.xmemSize ∧
      s.params.xmemSize + 1 = operand2 s + operand1 s + 4) ∧
    (∃ s : State, s.status.sess = .opened ∧ operand0 s + operand1 s ≤ s.params.xmemSize ∧
      operand2 s + operand1 s + 4 = s.params.xmemSize ∧ operand1 s = 1) ∧
    (∃ s : State, s.status.sess = .opened ∧ operand0 s + operand1 s ≤ s.params.xmemSize ∧
      operand2 s + operand1 s + 4 ≤ s.params.xmemSize ∧ operand1 s = 0x10000) ∧
    (∃ s : State, s.status.sess = .opened ∧ operand0 s + operand1 s = s.params.xmemSize ∧
      operand2 s + operand1 s + 4 = s.params.xmemSize ∧ operand1 s = 2) ∧
    (∃ s : State, s.status.sess = .opened ∧ operand0 s + operand1 s = s.params.xmemSize ∧
      operand2 s + operand1 s + 4 = s.params.xmemSize ∧ operand1 s = 0xFFFF) :=
  ⟨⟨State.reset, by decide⟩, ⟨withOperands 0x1FFFF 2 0 opened, by decide⟩, ⟨withOperands 0 1 0x1FFFC opened, by decide⟩,
    ⟨withOperands 0 1 0x1FFFB opened, by decide⟩, ⟨withOperands 0 0x10000 0 opened, by decide⟩,
    ⟨withOperands 0x1FFFE 2 0x1FFFA opened, by decide⟩, withOperands 0x10001 0xFFFF 0xFFFD opened, by decide⟩

theorem witness_UnpackUndoesPack :
    (∃ payload : List Byte, 2 = payload.length ∧ payload.length ≤ 0xFFFF) ∧
    (∃ payload : List Byte, 2 ≤ payload.length ∧ payload.length = 0xFFFF) :=
  ⟨⟨[1, 2], by decide⟩, List.replicate 0xFFFF 0, by rw [List.length_replicate]; decide⟩

theorem witness_LoopbackDeliversPayload :
    ∃ (s : State) (t : State), Inv s ∧ s.status.sess = .opened ∧ s.status.frame = false ∧ s.status.rxst = .awaitingHeader ∧
      s.hdrBuf.free = 4 ∧ s.enc = s.dec ∧ exec .txPack s = .next t ∧ t.status.cc = .ok :=
  have h : ∃ (t : State), exec .txPack (withOperands 0 10 0x100 (withBytes 0 payload10 opened)) = .next t ∧ t.status.cc = .ok :=
    exists_next (by decide +kernel)
  h.elim fun t ht =>
    ⟨_, t, opened_inv 0 10 0x100 0 payload10 (by decide), rfl, rfl, rfl, rfl, rfl, ht.1, ht.2⟩

theorem witness_RxFeedRefusesAsListed :
    (∃ s : State, s.status.sess ≠ .opened) ∧ (∃ s : State, s.status.sess = .opened ∧ s.status.frame = true) ∧
    (∃ s : State, s.status.sess = .opened ∧ s.status.frame = false ∧ s.params.xmemSize + 1 = operand0 s + operand1 s) ∧
    (∃ s : State, s.status.sess = .opened ∧ s.status.frame = false ∧ operand0 s = s.params.xmemSize ∧ operand1 s = 0 ∧
      ¬ (s.status.rxst = .awaitingPayload ∧ s.payBuf.free = 0)) :=
  ⟨⟨State.reset, by decide⟩, ⟨holdingFrame, by decide⟩, ⟨withOperands 0x1FFFF 2 0 opened, by decide⟩,
    withOperands 0x20000 0 0 awaitingTen, by decide⟩

theorem witness_RxFeedGathersPartialInput :
    (∃ s : State, s.status.sess = .opened ∧ s.status.frame = false ∧ operand0 s + operand1 s = s.params.xmemSize ∧
      s.status.rxst = .awaitingHeader ∧ operand1 s + 1 = s.hdrBuf.free) ∧
    (∃ s : State, s.status.sess = .opened ∧ s.status.frame = false ∧ operand0 s + operand1 s = s.params.xmemSize ∧
      s.status.rxst = .awaitingPayload ∧ operand1 s + 1 = s.payBuf.free) :=
  ⟨⟨withOperands 0x1FFFD 3 0 opened, by decide⟩, withOperands 0x1FFF7 9 0 awaitingTen, by decide⟩

theorem witness_RxFeedCompletesHeader :
    ∃ (s : State) (h : Bytes4) (len : U16), s.status.sess = .opened ∧ s.status.frame = false ∧
      operand0 s + operand1 s ≤ s.params.xmemSize ∧ s.status.rxst = .awaitingHeader ∧ 0 < s.hdrBuf.free ∧
      s.hdrBuf.free ≤ operand1 s ∧
      s.hdrBuf.written ++ readBytes s.xmem (operand0 s) s.hdrBuf.free = h.toList ∧
      validateHeader h s.dec.iv s.dec.mask = some len ∧ len ≠ 0 ∧ operand1 s - s.hdrBuf.free + 1 = len.toNat :=
  ⟨withOperands 0x101 12 0 (withBytes 0x100 frame10 { opened with hdrBuf := ⟨4, 3, [0x1D]⟩ }),
    ⟨0x1D, 0x04, 0x17, 0x04⟩, 10, by decide⟩

theorem witness_RxFeedClosesOnBadHeader :
    (∃ (s : State) (h : Bytes4), s.status.sess = .opened ∧ s.status.frame = false ∧
      operand0 s + operand1 s ≤ s.params.xmemSize ∧ s.status.rxst = .awaitingHeader ∧ 0 < s.hdrBuf.free ∧
      s.hdrBuf.free = operand1 s ∧
      s.hdrBuf.written ++ readBytes s.xmem (operand0 s) s.hdrBuf.free = h.toList ∧
      validateHeader h s.dec.iv s.dec.mask = none) ∧
    (∃ (s : State) (h : Bytes4), s.status.sess = .opened ∧ s.status.frame = false ∧
      operand0 s + operand1 s ≤ s.params.xmemSize ∧ s.status.rxst = .awaitingHeader ∧ 0 < s.hdrBuf.free ∧
      s.hdrBuf.free ≤ operand1 s ∧
      s.hdrBuf.written ++ readBytes s.xmem (operand0 s) s.hdrBuf.free = h.toList ∧
      validateHeader h s.dec.iv s.dec.mask = some 0) :=
  ⟨⟨withOperands 0 4 0 opened, ⟨0, 0, 0, 0⟩, by decide⟩,
    withOperands 0x100 9 0 (withBytes 0x100 [0x1D, 0x04, 0x1D, 0x04] opened), ⟨0x1D, 0x04, 0x1D, 0x04⟩, by decide⟩

theorem witness_RxFeedEmitsFrame :
    (∃ (s : State) (c : List Byte), s.status.sess = .opened ∧ s.status.frame = false ∧
      operand0 s + operand1 s ≤ s.params.xmemSize ∧ s.status.rxst = .awaitingPayload ∧ 0 < s.payBuf.free ∧
      s.payBuf.free = operand1 s ∧ c = s.payBuf.written ++ readBytes s.xmem (operand0 s) s.payBuf.free) ∧
    (∃ (s : State) (h : Bytes4) (len : U16) (c : List Byte), s.status.sess = .opened ∧ s.status.frame = false ∧
      operand0 s + operand1 s ≤ s.params.xmemSize ∧ s.status.rxst = .awaitingHeader ∧ 0 < s.hdrBuf.free ∧
      s.hdrBuf.written ++ readBytes s.xmem (operand0 s) s.hdrBuf.free = h.toList ∧
      validateHeader h s.dec.iv s.dec.mask = some len ∧ len ≠ 0 ∧ s.hdrBuf.free + len.toNat = operand1 s ∧
      c = readBytes s.xmem (operand0 s + s.hdrBuf.free) len.toNat) :=
  ⟨⟨withOperands 0x104 10 0 (withBytes 0x100 frame10 awaitingTen), _, by decide, by decide, by decide, by decide,
      by decide, by decide, rfl⟩,
    ⟨withOperands 0x100 14 0 (withBytes 0x100 frame10 opened), ⟨0x1D, 0x04, 0x17, 0x04⟩, 10, _, by decide, by decide,
      by decide, by decide, by decide, by decide, by decide, by decide, by decide, rfl⟩⟩

theorem witness_ChunkMayBeCutAnywhere :
    (∃ (s : State) (t : State) (n : Nat) (k : Nat), Inv s ∧ s.status.sess = .opened ∧ s.status.frame = false ∧ operand0 s + n + k ≤ s.params.xmemSize ∧
      n + k < 2 ^ 32 ∧ exec .rxFeed { s with a1 := BitVec.ofNat 64 n } = .next t ∧ t.status.frame = true) ∧
    (∃ (s : State) (t : State) (n : Nat) (k : Nat), Inv s ∧ s.status.sess = .opened ∧ s.status.frame = false ∧ operand0 s + n + k ≤ s.params.xmemSize ∧
      n + k < 2 ^ 32 ∧ exec .rxFeed { s with a1 := BitVec.ofNat 64 n } = .next t ∧ t.status.cc ≠ .ok) ∧
    (∃ (s : State) (t : State) (n : Nat) (k : Nat), Inv s ∧ s.status.sess = .opened ∧ s.status.frame = false ∧ operand0 s + n + k ≤ s.params.xmemSize ∧
      n + k < 2 ^ 32 ∧ exec .rxFeed { s with a1 := BitVec.ofNat 64 n } = .next t ∧ t.status.frame = false ∧
      t.status.cc = .ok) :=
  have h (n : Nat) (P : State → Prop) [DecidablePred P]
      (ht : givesNext (exec .rxFeed { withOperands 0x100 n 0 (withBytes 0x100 frame10 opened) with
        a1 := BitVec.ofNat 64 n }) (fun t => decide (P t)) = true) := exists_next ht
  ⟨(h 14 (fun t => t.status.frame = true) (by decide +kernel)).elim fun t ht =>
      ⟨_, t, 14, 3, opened_inv 0x100 14 0 0x100 frame10 (by decide), rfl, rfl, by decide, by decide, ht.1, ht.2⟩,
    (exists_next (P := fun t => t.status.cc ≠ .ok) (o := exec .rxFeed { withOperands 0x101 4 0 (withBytes 0x100 frame10
        opened) with a1 := BitVec.ofNat 64 4 }) (by decide)).elim fun t ht =>
      ⟨_, t, 4, 0, opened_inv 0x101 4 0 0x100 frame10 (by decide), rfl, rfl, by decide, by decide, ht.1, ht.2⟩,
    (h 3 (fun t => t.status.frame = false ∧ t.status.cc = .ok) (by decide)).elim fun t ht =>
      ⟨_, t, 3, 11, opened_inv 0x100 3 0 0x100 frame10 (by decide), rfl, rfl, by decide, by decide, ht.1, ht.2⟩⟩

theorem witness_BoundedBufferLaws :
    (∃ (b : BoundedBuffer) (src : List Byte) (off cnt : Nat), b.Sound ∧ off + cnt = src.length ∧ cnt = b.free + 1) ∧
    (∃ (b : BoundedBuffer) (src : List Byte) (off cnt : Nat), b.Sound ∧ off + cnt ≤ src.length ∧ cnt = 0) ∧
    (∃ (b : BoundedBuffer) (src : List Byte) (off cnt : Nat), b.Sound ∧ off + cnt ≤ src.length ∧ b.free = 0) :=
  ⟨⟨⟨9, 9, []⟩, payload10, 0, 10, by decide⟩, ⟨⟨4, 4, []⟩, [1, 2], 2, 0, by decide⟩, ⟨2, 0, [1, 2]⟩, payload10, 3, 7,
    by decide⟩

theorem witness_WindowCommandsSetWindow :
    (∃ s : State, operand0 s + operand1 s = s.params.xmemSize) ∧
    (∃ s : State, s.params.xmemSize + 1 = operand0 s + operand1 s) :=
  ⟨⟨withOperands 0x20000 0 0 State.reset, by decide⟩, withOperands 0x1FFFF 2 0 State.reset, by decide⟩

theorem witness_RdIntReadsLittleEndian :
    (∃ (s : State) (n : Nat) (width : Width), (n, width) ∈ [(1, Width.w1), (2, .w2), (4, .w4), (8, .w8)] ∧
      s.rd.stop + 1 = s.rd.pos + n) ∧
    (∃ (s : State) (n : Nat) (width : Width), (n, width) ∈ [(1, Width.w1), (2, .w2), (4, .w4), (8, .w8)] ∧
      s.rd.pos + n = s.rd.stop) :=
  ⟨⟨withReader 0 7 0 State.reset, 8, .w8, by decide⟩, withReader 0 8 0 State.reset, 8, .w8, by decide⟩

theorem witness_RdLstrReadsPrefixedString :
    let len := fun s : State => (readByte s.xmem s.rd.pos).toNat + 256 * (readByte s.xmem (s.rd.pos + 1)).toNat
    (∃ s : State, s.rd.stop + 1 = s.rd.pos + 2) ∧
    (∃ s : State, s.rd.pos + 2 ≤ s.rd.stop ∧ s.rd.stop + 1 = s.rd.pos + 2 + len s) ∧
    (∃ s : State, s.rd.pos + 2 + len s = s.rd.stop ∧ 0 < len s ∧ s.rd.pos + 2 < 2 ^ 32) ∧
    (∃ s : State, s.rd.pos + 2 + len s = s.rd.stop ∧ s.rd.pos + 2 = 2 ^ 32 - 1) ∧
    (∃ s : State, s.rd.pos + 2 + len s = s.rd.stop ∧ s.rd.pos + 2 = 2 ^ 32 ∧ len s < 2 ^ 32) :=
  ⟨⟨withReader 0 1 0 State.reset, by decide⟩, ⟨withReader 0 4 0 (withBytes 0 [3, 0] State.reset), by decide⟩,
    ⟨withReader 0 5 0 (withBytes 0 [3, 0] State.reset), by decide⟩,
    ⟨withReader 0 0xFFFFFFFF 0xFFFFFFFD State.reset, by decide⟩,
    withReader 0 0x100000000 0xFFFFFFFE State.reset, by decide⟩

theorem witness_RdPstrReadsPaddedString :
    (∃ (s : State) (n : Nat), 0 < n ∧ n < 2 ^ 16 ∧ s.rd.stop + 1 = s.rd.pos + n) ∧
    (∃ (s : State) (n len : Nat), 0 < n ∧ s.rd.pos + n = s.rd.stop ∧ len < n - 1 ∧
      (∀ j < len, readByte s.xmem (s.rd.pos + j) ≠ 0) ∧ readByte s.xmem (s.rd.pos + len) = 0) ∧
    (∃ (s : State) (n len : Nat), 0 < n ∧ s.rd.pos + n = s.rd.stop ∧ len = n - 1 ∧
      ∀ j < len, readByte s.xmem (s.rd.pos + j) ≠ 0) :=
  ⟨⟨State.reset, 1, by decide⟩, ⟨withReader 0 4 0 (withBytes 0 [1, 2] State.reset), 4, 2, by decide⟩,
    withReader 0 4 0 (withBytes 0 [1, 2, 3, 4] State.reset), 4, 3, by decide⟩

theorem witness_RdFullyDrainsWindow :
    (∃ s : State, s.rd.pos < s.rd.stop ∧ s.rd.stop - s.rd.pos = 2 ^ 32 - 1) ∧
    (∃ s : State, s.rd.pos = s.rd.stop ∧ s.rd.pos = 2 ^ 32 - 1) ∧
    (∃ s : State, s.rd.pos ≤ s.rd.stop ∧ s.rd.pos = 2 ^ 32 ∧ s.rd.stop - s.rd.pos < 2 ^ 32) :=
  ⟨⟨withReader 0 0x100000000 1 State.reset, by decide⟩, ⟨withReader 0 0xFFFFFFFF 0xFFFFFFFF State.reset, by decide⟩,
    withReader 0 0x100000000 0x100000000 State.reset, by decide⟩

theorem witness_WrIntWritesLittleEndian :
    (∃ (s : State) (n : Nat) (width : Width), (n, width) ∈ [(1, Width.w1), (2, .w2), (4, .w4), (8, .w8)] ∧
      s.wr.stop + 1 = s.wr.pos + n) ∧
    (∃ (s : State) (n : Nat) (width : Width), (n, width) ∈ [(1, Width.w1), (2, .w2), (4, .w4), (8, .w8)] ∧
      s.wr.pos + n = s.wr.stop) :=
  ⟨⟨State.reset, 1, .w1, by decide⟩, withWriter 0 8 0 State.reset, 8, .w8, by decide⟩

theorem witness_WrLstrWritesPrefixedString :
    (∃ s : State, operand1 s = 0x10000) ∧ (∃ s : State, s.params.xmemSize + 1 = operand0 s + operand1 s) ∧
    (∃ s : State, operand1 s ≤ 0xFFFF ∧ operand0 s + operand1 s ≤ s.params.xmemSize ∧
      s.wr.stop + 1 = s.wr.pos + 2 + operand1 s) ∧
    (∃ s : State, operand1 s = 0xFFFF ∧ operand0 s + operand1 s = s.params.xmemSize ∧
      s.wr.pos + 2 + operand1 s = s.wr.stop) :=
  ⟨⟨withOperands 0 0x10000 0 State.reset, by decide⟩, ⟨withOperands 0x1FFFF 2 0 State.reset, by decide⟩,
    ⟨withOperands 0 3 0 (withWriter 0 4 0 State.reset), by decide⟩,
    withOperands 0x10001 0xFFFF 0 (withWriter 0 0x10001 0 State.reset), by decide⟩

theorem witness_WrPstrWritesPaddedString :
    (∃ (s : State) (n : Nat), n = 0 ∧ operand0 s + operand1 s ≤ s.params.xmemSize) ∧
    (∃ (s : State) (n : Nat), n < 2 ^ 16 ∧ n = operand1 s) ∧
    (∃ (s : State) (n : Nat), operand1 s < n ∧ s.params.xmemSize + 1 = operand0 s + operand1 s) ∧
    (∃ (s : State) (n : Nat), operand1 s < n ∧ operand0 s + operand1 s ≤ s.params.xmemSize ∧
      s.wr.stop + 1 = s.wr.pos + n) ∧
    (∃ (s : State) (n : Nat), operand1 s + 1 = n ∧ operand0 s + operand1 s = s.params.xmemSize ∧
      s.wr.pos + n = s.wr.stop) :=
  ⟨⟨State.reset, 0, by decide⟩, ⟨withOperands 0 4 0 State.reset, 4, by decide⟩,
    ⟨withOperands 0x1FFFF 2 0 State.reset, 3, by decide⟩,
    ⟨withOperands 0 3 0 (withWriter 0 3 0 State.reset), 4, by decide⟩,
    withOperands 0x1FFFD 3 0 (withWriter 0 4 0 State.reset), 4, by decide⟩

theorem witness_WrBytesCopiesBytes :
    (∃ s : State, s.params.xmemSize + 1 = operand0 s + operand1 s) ∧
    (∃ s : State, operand0 s + operand1 s ≤ s.params.xmemSize ∧ s.wr.stop + 1 = s.wr.pos + operand1 s) ∧
    (∃ s : State, operand0 s + operand1 s = s.params.xmemSize ∧ s.wr.pos + operand1 s = s.wr.stop) :=
  ⟨⟨withOperands 0x1FFFF 2 0 State.reset, by decide⟩, ⟨withOperands 0 1 0 State.reset, by decide⟩,
    withOperands 0x20000 0 0 State.reset, by decide⟩

theorem witness_CodecRoundTrips :
    (∃ (s : State) (t : State) (width : Width), s.wr.stop < 2 ^ 32 ∧ exec (.wrInt width) s = .next t ∧ t.status.cc = .ok) ∧
    (∃ (s : State) (t : State), s.wr.stop < 2 ^ 32 ∧ exec .wrLstr s = .next t ∧ t.status.cc = .ok) ∧
    (∃ (s : State) (t : State) (n : Nat), s.wr.stop < 2 ^ 32 ∧ exec (.wrPstr n) s = .next t ∧ t.status.cc = .ok ∧ 0 < operand1 s ∧
      ∀ b ∈ readBytes s.xmem (operand0 s) (operand1 s), b ≠ 0) :=
  ⟨⟨withWriter 0 8 0 State.reset, _, .w8, by decide, rfl, rfl⟩,
    (exists_next (o := exec .wrLstr (withOperands 0x20 3 0 (withWriter 0 8 0 State.reset)))
      (P := fun t => t.status.cc = .ok) (by decide)).elim fun t ht => ⟨_, t, by decide, ht.1, ht.2⟩,
    (exists_next (o := exec (.wrPstr 4) (withOperands 0x20 3 0 (withWriter 0 8 0 (withBytes 0x20 [1, 2, 3] State.reset))))
      (P := fun t => t.status.cc = .ok) (by decide)).elim fun t ht =>
        ⟨_, t, 4, by decide, ht.1, ht.2, by decide, by decide⟩⟩

end Sys2Proof.Tests
end

section
/-! PROOFS. The host's side of a step (70_reset_and_hazards.md R172). -/

namespace Sys2Proof.Machine

/-- With `BUSY` = 0 a step takes the host's next action off its sequence and performs it. -/
theorem step_eq_hostAct {s : State} {a : HostAction} {rest : List HostAction} (hq : s.hostQueue = a :: rest)
    (hb : s.status.busy = false) : step s = hostAct a { s with hostQueue := rest } := by
  simp [step, hq, hb]

/-- A host write that ends inside XMEM is the shared byte store. -/
theorem hostAct_writeXmem_of_legal {s : State} {x : Nat} {bs : List Byte} (h : RangeLegal s.params x bs.length) :
    hostAct (.writeXmem x bs) s = .next { s with xmem := writeBytes s.xmem x bs } :=
  if_pos h

/-- Settles O8: the new memory is `writeBytes s.xmem x bs`, whose bytes `storesAt_writeBytes` gives and whose canonical
form `wf_writeBytes` keeps. -/
theorem hostXmemWriteStoresItsBytes : Obligations.HostXmemWriteStoresItsBytes := by
  intro s x bs rest hq hb hx
  refine ⟨writeBytes s.xmem x bs, storesAt_writeBytes rfl, fun hwf => wf_writeBytes hwf x bs, ?_⟩
  exact (step_eq_hostAct hq hb).trans (hostAct_writeXmem_of_legal hx)

end Sys2Proof.Machine
end

section
/-! PROOFS. Everything a command can do, said once: the cases that every rule about all commands is read off from. -/

namespace Sys2Proof.Machine

/-- The commands that need an open session (10_state.md R35). -/
def cipherCommands : List Instr := [.ksXform .encrypt, .ksXform .decrypt, .hdrBuild, .hdrCheck, .txPack, .rxFeed]

/-- When a command ends with SESSION_STATE (10_state.md R35). -/
abbrev SessionRefuses (i : Instr) (s : State) : Prop :=
  (i = .sessInit ∧ s.status.sess = .opened) ∨ (i ∈ cipherCommands ∧ s.status.sess ≠ .opened)

/-- The reader's commands that write `STATUS.OK` (10_state.md R25). -/
def writesOk : Instr → Bool
  | .rdInt _ _ | .rdLstr _ | .rdPstr _ _ | .rdFully => true
  | _ => false

/-- The commands that write `STATUS.OK` also write R0 (30_encoding.md R76). -/
theorem writesR0_of_writesOk {i : Instr} (h : writesOk i = true) : writesR0 i = true := by
  cases i with
  | rdInt | rdLstr | rdPstr | rdFully => rfl
  | _ => cases h

/-- XMEM as one command leaves it: as it was, or with one byte range inside it written (20_memory.md R51). -/
inductive StoredOnce (p : Params) (m : Memory) : Memory → Prop where
  | kept : StoredOnce p m m
  | stored (a : Nat) (bs : List Byte) (h : RangeLegal p a bs.length) : StoredOnce p m (writeBytes m a bs)

/-- The cursor `p` lies in the window `w`, if the window's own cursor does not stand past its end. -/
abbrev Window.Moves (w : Window) (p : Nat) : Prop := w.pos ≤ w.stop → w.pos ≤ p ∧ p ≤ w.stop

/-- What the command `i` can answer in the state `s`: each case writes out all that it changes, with what the rules say
of the new values. -/
inductive CommandEnds (s : State) : Instr → Outcome → Prop where
  /-- The command raises a code and has no effect (60_exceptions.md R147). -/
  | refused {i : Instr} (c : Code) (hc : c ≠ .ok) (hs : c = .sessionState → SessionRefuses i s) :
      CommandEnds s i (.next (s.ended c))
  /-- Only R0, XMEM and the windows take new values. -/
  | moved {i : Instr} (v : U64) (m : Memory) (rd wr : Window) (hv : v = s.r0 ∨ writesR0 i = true)
      (hm : StoredOnce s.params s.xmem m) (hrd : s.rd.Inside s.params → rd.Inside s.params)
      (hwr : s.wr.Inside s.params → wr.Inside s.params) :
      CommandEnds s i (.next (State.ended { s with r0 := v, xmem := m, rd := rd, wr := wr } .ok))
  /-- A write at the writer's cursor (45_codec.md R140). -/
  | wrote {i : Instr} (bs : List Byte) (hi : writesR0 i = true) (hf : WriteFits s bs.length) :
      CommandEnds s i (.next (wroteField s bs.length (writeBytes s.xmem s.wr.pos bs)))
  /-- A read, or an underrun that completes (45_codec.md R134). -/
  | read {i : Instr} (v : U64) (p : Nat) (b : Bool) (hi : writesOk i = true) (hp : s.rd.Moves p) :
      CommandEnds s i (.next (State.ended
        { s with r0 := v, rd := { s.rd with pos := p }, status := { s.status with ok := b } } .ok))
  /-- An underrun that raises END_OF_STREAM (45_codec.md R134). -/
  | endOfStream {i : Instr} (hi : writesOk i = true) :
      CommandEnds s i (.next (State.ended { s with status := { s.status with ok := false } } .endOfStream))
  /-- A session opens (40_session_control.md R85). -/
  | sessInit (enc dec : RollingIv) (ho : ¬ SessionOpen s) :
      CommandEnds s .sessInit (.next (State.ended
        { s with
          enc := enc, dec := dec
          status := { s.status with
            sess := .opened, rxst := .awaitingHeader, closeReason := .notClosed, frame := false, v := false }
          hdrBuf := BoundedBuffer.emptyHeader, payBuf := BoundedBuffer.emptyPayload } .ok))
  /-- An open session closes, at the host's wish or for a bad header (40_session_control.md R84, 44_framer.md R128). -/
  | closed {i : Instr} (r : CloseReason) (c : Code)
      (hi : i = .sessClose ∧ c = .ok ∨ i = .rxFeed ∧ c = .protocolViolation) (hr : r ≠ .notClosed)
      (ho : SessionOpen s) :
      CommandEnds s i (.next (State.ended
        { s with
          status := { s.status with sess := .closed, closeReason := r, rxst := .awaitingHeader }
          events := { s.events with closing := true }
          enc := RollingIv.zero, dec := RollingIv.zero
          hdrBuf := BoundedBuffer.emptyHeader, payBuf := BoundedBuffer.emptyPayload } c))
  /-- Write one to clear (40_session_control.md R88). -/
  | events (v : EventBits) :
      CommandEnds s (.csrWrite 0x001) (.next (State.ended { s with events := clearEvents s.events v } .ok))
  /-- 40_session_control.md R88. -/
  | irqEn (v : EventBits) : CommandEnds s (.csrWrite 0x002) (.next (State.ended { s with irqEn := v } .ok))
  /-- 10_state.md R39, 40_session_control.md R88. -/
  | rxDst (v : U32) (hv : RangeLegal s.params v.toNat 65535) :
      CommandEnds s (.csrWrite 0x003) (.next (State.ended { s with rxDst := v } .ok))
  /-- The encrypt IV advances (43_rolling_iv.md R116, 44_framer.md R126). -/
  | encrypted {i : Instr} (v : U64) (m : Memory) (hi : i = .ksXform .encrypt ∧ v = s.r0 ∨ i = .txPack)
      (ho : SessionOpen s) (hm : StoredOnce s.params s.xmem m) :
      CommandEnds s i (.next (State.ended
        { s with r0 := v, xmem := m, enc := { s.enc with iv := shuffleStep s.params s.enc.iv } } .ok))
  /-- The decrypt IV advances (43_rolling_iv.md R116). -/
  | decrypted (m : Memory) (ho : SessionOpen s) (hm : StoredOnce s.params s.xmem m) :
      CommandEnds s (.ksXform .decrypt) (.next (State.ended
        { s with xmem := m, dec := { s.dec with iv := shuffleStep s.params s.dec.iv } } .ok))
  /-- 43_rolling_iv.md R118. -/
  | hdrCheck (v : U64) (b : Bool) (ho : SessionOpen s) :
      CommandEnds s .hdrCheck (.next (State.ended { s with r0 := v, status := { s.status with v := b } } .ok))
  /-- RX_FEED keeps its chunk in the buffers (44_framer.md R128, R130). -/
  | gathered (v : U64) (hb pb : BoundedBuffer) (x : RxPhase) (ho : SessionOpen s) :
      CommandEnds s .rxFeed (.next (State.ended
        { s with r0 := v, hdrBuf := hb, payBuf := pb, status := { s.status with rxst := x } } .ok))
  /-- RX_FEED emits a frame (44_framer.md R129). -/
  | emitted (v : U64) (m : Memory) (rd : Window) (ho : SessionOpen s) :
      CommandEnds s .rxFeed (.next (State.ended
        { s with
          r0 := v, xmem := m, rd := rd, dec := { s.dec with iv := shuffleStep s.params s.dec.iv }
          status := { s.status with frame := true, rxst := .awaitingHeader }
          events := { s.events with frame := true }
          hdrBuf := BoundedBuffer.emptyHeader, payBuf := BoundedBuffer.emptyPayload } .ok))
  /-- 44_framer.md R131. -/
  | rxRelease :
      CommandEnds s .rxRelease (.next (State.ended
        { s with rd := Window.empty, status := { s.status with frame := false } } .ok))

section
variable {s : State}

/-- A refusal for another reason than the session. -/
theorem CommandEnds.refusal {i : Instr} (c : Code) (hc : c ≠ .ok := by decide) (hs : c ≠ .sessionState := by decide) :
    CommandEnds s i (raise c s) :=
  .refused c hc fun h => absurd h hs

/-- A refusal since no session is open (10_state.md R35). -/
theorem CommandEnds.sessionRefusal {i : Instr} (hi : i ∈ cipherCommands) (ho : ¬ SessionOpen s) :
    CommandEnds s i (raise .sessionState s) :=
  .refused .sessionState (by decide) fun _ => .inr ⟨hi, ho⟩

/-- The command only writes R0. -/
theorem CommandEnds.result {i : Instr} (v : U64) (hi : writesR0 i = true) : CommandEnds s i (complete (setR0 v s)) :=
  .moved v s.xmem s.rd s.wr (.inr hi) .kept id id

/-- A window of a legal range, with its cursor at its start, lies inside XMEM (45_codec.md R133, R139). -/
theorem window_inside {p : Params} {a n : Nat} (h : RangeLegal p a n) : Window.Inside p ⟨a, a + n, a⟩ :=
  ⟨Nat.le_refl a, Nat.le_add_right a n, h⟩

theorem execSessInit_ends : CommandEnds s .sessInit (execSessInit s) := by
  unfold execSessInit
  split
  · rename_i ho
    exact .refused .sessionState (by decide) fun _ => .inl ⟨rfl, ho⟩
  · rename_i ho
    split
    · exact .refusal .boundsViolation
    · exact .sessInit _ _ ho

theorem execSessClose_ends : CommandEnds s .sessClose (execSessClose s) := by
  unfold execSessClose
  by_cases ho : SessionOpen s
  · rw [closeSession_of_open .hostClose s ho]
    exact .closed .hostClose .ok (.inl ⟨rfl, rfl⟩) (by decide) ho
  · rw [closeSession_of_not_open .hostClose s ho]
    exact .moved s.r0 s.xmem s.rd s.wr (.inl rfl) .kept id id

theorem execCsrRead_ends (csr : Nat) : CommandEnds s (.csrRead csr) (execCsrRead csr s) := by
  unfold execCsrRead
  split
  · exact .refusal .csrAccess
  · exact .result _ rfl

theorem writeRxDst_ends : CommandEnds s (.csrWrite 0x003) (writeRxDst s) := by
  unfold writeRxDst
  split
  · rename_i h
    refine .rxDst (BitVec.ofNat 32 (operand0 s)) ?_
    rwa [BitVec.toNat_ofNat, Nat.mod_eq_of_lt (a := operand0 s) (regField_low32_lt s.a0)]
  · exact .refusal .boundsViolation

theorem execCsrWrite_ends (csr : Nat) : CommandEnds s (.csrWrite csr) (execCsrWrite csr s) := by
  unfold execCsrWrite
  split
  case h_2 h => exact csrOfNumber_eq_events h ▸ .events (eventBitsOf s.a0)
  case h_3 h => exact csrOfNumber_eq_irqEn h ▸ .irqEn (eventBitsOf s.a0)
  case h_4 h => exact csrOfNumber_eq_rxDst h ▸ writeRxDst_ends
  all_goals exact .refusal .csrAccess

/-- TP_ENC and TP_DEC write one range in place, when `f` keeps the length (41_transposition.md R96, R97). -/
theorem transformRange_commandEnds {f : List Byte → List Byte} (hf : ∀ d, (f d).length = d.length) (i : Instr) :
    CommandEnds s i (transformRange f s) := by
  unfold transformRange
  split
  · rename_i h
    refine .moved s.r0 _ s.rd s.wr (.inl rfl) (.stored _ _ ?_) id id
    rwa [hf, length_readBytes]
  · exact .refusal .boundsViolation

theorem execKsXform_ends (side : Side) : CommandEnds s (.ksXform side) (execKsXform side s) := by
  unfold execKsXform
  split
  · exact .sessionRefusal (by cases side <;> decide) ‹_›
  · rename_i ho
    split
    · exact .refusal .boundsViolation
    · rename_i h
      have hm : StoredOnce s.params s.xmem (writeBytes s.xmem (operand0 s)
          (ivTransform s.params (readBytes s.xmem (operand0 s) (operand1 s)) (sideIv s side).iv).1) := by
        refine .stored _ _ ?_
        rw [length_ivTransform, length_readBytes]
        exact not_not.1 h
      cases side with
      | encrypt => exact .encrypted s.r0 _ (.inl ⟨rfl, rfl⟩) (not_not.1 ho) hm
      | decrypt => exact .decrypted _ (not_not.1 ho) hm

theorem execHdrBuild_ends : CommandEnds s .hdrBuild (execHdrBuild s) := by
  unfold execHdrBuild
  split
  · exact .sessionRefusal (by decide) ‹_›
  · split
    · exact .refusal .headerLength
    · exact .result _ rfl

theorem execHdrCheck_ends : CommandEnds s .hdrCheck (execHdrCheck s) := by
  unfold execHdrCheck
  split
  · exact .sessionRefusal (by decide) ‹_›
  · rename_i ho
    split
    · exact .hdrCheck 0 false (not_not.1 ho)
    · exact .hdrCheck _ true (not_not.1 ho)

/-- A frame is 4 bytes longer than its payload (44_framer.md R123). -/
theorem length_packFrame (p : Params) (payload : List Byte) (r : RollingIv) :
    (packFrame p payload r).1.length = payload.length + 4 := by
  simp [packFrame, length_toList, length_ivTransform, length_tpEncrypt, Nat.add_comm]

theorem execTxPack_ends : CommandEnds s .txPack (execTxPack s) := by
  unfold execTxPack
  dsimp only
  split
  · exact .sessionRefusal (by decide) ‹_›
  · rename_i ho
    split
    · exact .refusal .boundsViolation
    · rename_i h
      split
      · exact .refusal .headerLength
      · refine .encrypted _ _ (.inr rfl) (not_not.1 ho) (.stored _ _ ?_)
        rw [length_packFrame, length_readBytes]
        exact (not_not.1 h).2

/-- The three ways the loop of RX_FEED ends (44_framer.md R128 to R130). -/
theorem FeedEnds.commandEnds {t : State} (ho : SessionOpen s) (ht : FeedEnds s t) :
    CommandEnds s .rxFeed (.next t) := by
  cases ht with
  | gathered hb pb x p h => exact h ▸ .gathered _ hb pb x ho
  | emitted hb pb p h => exact h ▸ .emitted _ _ _ ho
  | violated hb pb r hr h =>
    rw [closeSession_reassembling ho, closeSession_of_open r s ho] at h
    have hne : r ≠ .notClosed := by rintro rfl; simp at hr
    exact h ▸ .closed r .protocolViolation (.inr ⟨rfl, rfl⟩) hne ho

theorem execRxFeed_commandEnds : CommandEnds s .rxFeed (execRxFeed s) := by
  obtain ⟨ho, h⟩ | ⟨-, -, h⟩ | ⟨-, -, -, h⟩ | ⟨ho, -, -, t, h, ht⟩ := execRxFeed_ends s
  · exact h ▸ .sessionRefusal (by decide) ho
  · exact h ▸ .refusal .framePending
  · exact h ▸ .refusal .boundsViolation
  · exact h ▸ ht.commandEnds ho

theorem execRdWin_ends : CommandEnds s .rdWin (execRdWin s) := by
  unfold execRdWin
  split
  · exact .moved s.r0 s.xmem _ s.wr (.inl rfl) .kept (fun _ => window_inside ‹_›) id
  · exact .refusal .boundsViolation

/-- A read of `k` bytes that fit (45_codec.md R134). -/
theorem readDone_commandEnds {i : Instr} (hi : writesOk i = true) (v : U64) {k : Nat} (hk : ReadFits s k) :
    CommandEnds s i (readDone v k s) :=
  .read v (s.rd.pos + k) true hi fun _ => ⟨Nat.le_add_right _ k, hk⟩

theorem underrun_commandEnds {i : Instr} (hi : writesOk i = true) (safe : Bool) :
    CommandEnds s i (underrun safe s) := by
  cases safe with
  | true => exact .read 0 s.rd.pos false hi fun h => ⟨Nat.le_refl _, h⟩
  | false => exact .endOfStream hi

theorem execRdInt_ends (safe : Bool) (width : Width) : CommandEnds s (.rdInt safe width) (execRdInt safe width s) := by
  unfold execRdInt
  split
  · exact readDone_commandEnds rfl _ ‹_›
  · exact underrun_commandEnds rfl safe

theorem execRdLstr_ends (safe : Bool) : CommandEnds s (.rdLstr safe) (execRdLstr safe s) := by
  unfold execRdLstr
  split
  · exact underrun_commandEnds rfl safe
  · split
    · exact underrun_commandEnds rfl safe
    · exact readDone_commandEnds rfl _ (not_not.1 ‹_›)

theorem execRdPstr_ends (safe : Bool) (n : Nat) : CommandEnds s (.rdPstr safe n) (execRdPstr safe n s) := by
  unfold execRdPstr
  split
  · exact .refusal .boundsViolation
  · split
    · exact underrun_commandEnds rfl safe
    · exact readDone_commandEnds rfl _ (not_not.1 ‹_›)

theorem execRdFully_ends : CommandEnds s .rdFully (execRdFully s) :=
  .read _ s.rd.stop true rfl fun h => ⟨h, Nat.le_refl _⟩

theorem execWrWin_ends : CommandEnds s .wrWin (execWrWin s) := by
  unfold execWrWin
  split
  · exact .moved s.r0 s.xmem s.rd _ (.inl rfl) .kept id fun _ => window_inside ‹_›
  · exact .refusal .boundsViolation

theorem writeField_commandEnds {i : Instr} (hi : writesR0 i = true) (bs : List Byte) :
    CommandEnds s i (writeField bs s) := by
  unfold writeField
  split
  · exact .wrote bs hi ‹_›
  · exact .refusal .writeOverflow

theorem execWrLstr_ends : CommandEnds s .wrLstr (execWrLstr s) := by
  unfold execWrLstr
  split
  · exact .refusal .boundsViolation
  · exact writeField_commandEnds rfl _

theorem execWrPstr_ends (n : Nat) : CommandEnds s (.wrPstr n) (execWrPstr n s) := by
  unfold execWrPstr
  split
  · exact .refusal .boundsViolation
  · exact writeField_commandEnds rfl _

theorem execWrBytes_ends : CommandEnds s .wrBytes (execWrBytes s) := by
  unfold execWrBytes
  split
  · exact .refusal .boundsViolation
  · exact writeField_commandEnds rfl _

end

/-- Everything a command can do, in every state (30_encoding.md R76). -/
theorem exec_ends (i : Instr) (s : State) : CommandEnds s i (exec i s) := by
  cases i with
  | sessInit => exact execSessInit_ends
  | sessClose => exact execSessClose_ends
  | csrRead csr => exact execCsrRead_ends csr
  | csrWrite csr => exact execCsrWrite_ends csr
  | tpEnc => exact transformRange_commandEnds length_tpEncrypt _
  | tpDec => exact transformRange_commandEnds length_tpDecrypt _
  | shuffle => exact .result _ rfl
  | ksXform side => exact execKsXform_ends side
  | hdrBuild => exact execHdrBuild_ends
  | hdrCheck => exact execHdrCheck_ends
  | txPack => exact execTxPack_ends
  | rxFeed => exact execRxFeed_commandEnds
  | rxRelease => exact .rxRelease
  | rdWin => exact execRdWin_ends
  | rdInt safe width => exact execRdInt_ends safe width
  | rdLstr safe => exact execRdLstr_ends safe
  | rdPstr safe n => exact execRdPstr_ends safe n
  | rdFully => exact execRdFully_ends
  | wrWin => exact execWrWin_ends
  | wrInt width => exact writeField_commandEnds rfl _
  | wrLstr => exact execWrLstr_ends
  | wrPstr n => exact execWrPstr_ends n
  | wrBytes => exact execWrBytes_ends

/-- What a command has done, when it answers the state `t`. -/
theorem commandEnds_of_exec {i : Instr} {s t : State} (h : exec i s = .next t) : CommandEnds s i (.next t) :=
  h ▸ exec_ends i s

end Sys2Proof.Machine
end

section
/-! PROOFS. The invariant holds at reset and every step keeps it (10_state.md R27 to R41, 44_framer.md R127). -/

namespace Sys2Proof.Machine

/-- What `Inv` says, but for `BUSY` and `CMD`: it also holds while a command runs. -/
structure RunInv (s : State) : Prop where
  params_legal : s.params.Legal
  xmem_wf : Memory.wf s.xmem
  xmem_inside : ∀ c ∈ s.xmem, c.1 < s.params.xmemSize
  reader_inside : s.rd.Inside s.params
  writer_inside : s.wr.Inside s.params
  rxDst_fits : RangeLegal s.params s.rxDst.toNat 65535
  reassembler : ReassemblerSound s
  session : SessionSound s

theorem Inv.runInv {s : State} (h : Inv s) : RunInv s := { h with }

/-- The end of a command brings back the rest of the invariant (10_state.md R21, R27). -/
theorem RunInv.ended {s : State} (h : RunInv s) (c : Code) : Inv (s.ended c) :=
  { h with not_busy := rfl, no_cmd := rfl }

/-- Away from BUSY and CMD, latching a command changes nothing (10_state.md R21). -/
theorem RunInv.latchCmd {s : State} (h : RunInv s) (w : U32) : RunInv (latchCmd w s) := { h with }

/-- While the session is open, only the close reason is bound to it (10_state.md R25). -/
theorem sessionSound_of_open {s : State} (ho : SessionOpen s) : SessionSound s ↔ s.status.closeReason = .notClosed := by
  simp only [SessionSound, ho]

theorem reassemblerSound_of_awaitingHeader {s : State} (hx : s.status.rxst = .awaitingHeader) :
    ReassemblerSound s ↔
      s.hdrBuf.Sound ∧ s.hdrBuf.cap = 4 ∧ s.payBuf.Sound ∧
        0 < s.hdrBuf.free ∧ s.payBuf = BoundedBuffer.emptyPayload := by
  simp only [ReassemblerSound, hx]

theorem reassemblerSound_of_awaitingPayload {s : State} (hx : s.status.rxst = .awaitingPayload) :
    ReassemblerSound s ↔
      s.hdrBuf.Sound ∧ s.hdrBuf.cap = 4 ∧ s.payBuf.Sound ∧
        s.hdrBuf.free = 0 ∧ 0 < s.payBuf.free ∧ s.payBuf.cap ≤ 0xFFFF := by
  simp only [ReassemblerSound, hx]

theorem emptyHeader_sound : BoundedBuffer.emptyHeader.Sound := ⟨Nat.le_refl 4, rfl⟩

theorem emptyPayload_sound : BoundedBuffer.emptyPayload.Sound := ⟨Nat.le_refl 0, rfl⟩

/-- The first state of the reassembler is sound (10_state.md R46). -/
theorem reassemblerSound_of_empty {s : State} (hx : s.status.rxst = .awaitingHeader)
    (hh : s.hdrBuf = BoundedBuffer.emptyHeader) (hp : s.payBuf = BoundedBuffer.emptyPayload) : ReassemblerSound s := by
  rw [reassemblerSound_of_awaitingHeader hx, hh, hp]
  exact ⟨emptyHeader_sound, rfl, emptyPayload_sound, by decide, rfl⟩

/-- Appending `bs` to a sound buffer leaves it sound, with that much less room (44_framer.md R122). -/
theorem BoundedBuffer.Sound.filled {b : BoundedBuffer} (h : b.Sound) {bs : List Byte} {k : Nat}
    (hk : k + bs.length = b.free) : BoundedBuffer.Sound ⟨b.cap, k, b.written ++ bs⟩ := by
  obtain ⟨hle, hl⟩ := h
  simp only [BoundedBuffer.Sound, List.length_append]
  omega

/-- Only the state UNINIT says anything of `FRAME`, and there it is 0 (10_state.md R46). -/
theorem SessionSound.releaseFrame {s : State} (h : SessionSound s) : SessionSound (setFrame false s) := by
  cases hs : s.status.sess with
  | uninit =>
    simp only [SessionSound, setFrame_status, hs] at h ⊢
    exact ⟨h.1, trivial, h.2.2⟩
  | opened => exact (sessionSound_of_open (s := setFrame false s) hs).2 ((sessionSound_of_open hs).1 h)
  | closed =>
    simp only [SessionSound, setFrame_status, hs] at h ⊢
    exact h

theorem emptyWindow_inside (p : Params) : Window.empty.Inside p := ⟨Nat.le_refl 0, Nat.le_refl 0, Nat.zero_le _⟩

theorem StoredOnce.wf {p : Params} {m m' : Memory} (h : StoredOnce p m m') (hm : Memory.wf m) : Memory.wf m' := by
  cases h with
  | kept => exact hm
  | stored a bs _ => exact wf_writeBytes hm a bs

theorem StoredOnce.inside {p : Params} {m m' : Memory} (h : StoredOnce p m m') (hm : ∀ c ∈ m, c.1 < p.xmemSize) :
    ∀ c ∈ m', c.1 < p.xmemSize := by
  cases h with
  | kept => exact hm
  | stored a bs hr => exact writeBytes_inside hm hr

section
variable {s : State} (h : RunInv s)
include h

theorem RunInv.setR0 (v : U64) : RunInv (setR0 v s) := { h with }

/-- The two ways RX_FEED ends without a violation differ only in the state they end (44_framer.md R130). -/
theorem RunInv.feedDone {p : Nat} {t : State} (ht : feedDone p s = .next t) : Inv t := by
  cases ht
  exact (h.setR0 _).ended .ok

/-- A store inside XMEM keeps the invariant. -/
theorem RunInv.store {m : Memory} (hm : StoredOnce s.params s.xmem m) : RunInv { s with xmem := m } :=
  { h with xmem_wf := hm.wf h.xmem_wf, xmem_inside := hm.inside h.xmem_inside }

/-- A close brings the cipher and the reassembler into their first state (40_session_control.md R84). -/
theorem RunInv.close {r : CloseReason} (hr : r ≠ .notClosed) : RunInv (closeSession r s) := by
  by_cases ho : SessionOpen s
  · rw [closeSession_of_open r s ho]
    exact { h with reassembler := reassemblerSound_of_empty rfl rfl rfl, session := ⟨hr, rfl, rfl, rfl, rfl⟩ }
  · rwa [closeSession_of_not_open r s ho]

/-- An opened session has passed its checks and starts with empty buffers (40_session_control.md R85). -/
theorem RunInv.opened (enc dec : RollingIv) :
    RunInv { s with
      enc := enc, dec := dec
      status := { s.status with
        sess := .opened, rxst := .awaitingHeader, closeReason := .notClosed, frame := false, v := false }
      hdrBuf := BoundedBuffer.emptyHeader, payBuf := BoundedBuffer.emptyPayload } :=
  { h with reassembler := reassemblerSound_of_empty rfl rfl rfl, session := rfl }

theorem RunInv.closeReason_of_open (ho : SessionOpen s) : s.status.closeReason = .notClosed :=
  (sessionSound_of_open ho).1 h.session

/-- In an open session the IVs may take any values (10_state.md R33). -/
theorem RunInv.setIvs (ho : SessionOpen s) (enc dec : RollingIv) : RunInv { s with enc := enc, dec := dec } :=
  { h with session := (sessionSound_of_open (s := { s with enc := enc, dec := dec }) ho).2 (h.closeReason_of_open ho) }

/-- In an open session the reassembler may be in any sound state. -/
theorem RunInv.reassembling (ho : SessionOpen s) {hb pb : BoundedBuffer} {x : RxPhase}
    (hs : ReassemblerSound (s.reassembling hb pb x)) : RunInv (s.reassembling hb pb x) :=
  { h with
    reassembler := hs
    session := (sessionSound_of_open (s := s.reassembling hb pb x) ho).2 (h.closeReason_of_open ho) }

/-- A frame of at most 0xFFFF bytes fits between RX_DST and the end of XMEM (10_state.md R39, 44_framer.md R129). -/
theorem RunInv.emit (ho : SessionOpen s) (hb pb : BoundedBuffer) (x : RxPhase) (hl : pb.written.length ≤ 0xFFFF) :
    RunInv (emitFrame (s.reassembling hb pb x)) := by
  have hu : (unpackFrame s.params pb.written s.dec.iv).1.length = pb.written.length := by
    rw [unpackFrame, length_tpDecrypt, length_ivTransform]
  have hend : s.rxDst.toNat + pb.written.length ≤ s.params.xmemSize :=
    Nat.le_trans (Nat.add_le_add_left hl _) h.rxDst_fits
  have hm := h.store (.stored s.rxDst.toNat (unpackFrame s.params pb.written s.dec.iv).1 (hu ▸ hend))
  exact
    { hm with
      reader_inside := window_inside hend
      reassembler := reassemblerSound_of_empty rfl rfl rfl
      session := (sessionSound_of_open (s := emitFrame (s.reassembling hb pb x)) ho).2 (h.closeReason_of_open ho) }

/-- From inside a payload the loop of RX_FEED keeps the invariant (44_framer.md R129, R130). -/
theorem RunInv.feedLoop_payload (ho : SessionOpen s) (hx : s.status.rxst = .awaitingPayload) {chunk : List Byte}
    {passes p : Nat} (hp : p ≤ chunk.length) {t : State} (ht : feedLoop chunk (passes + 2) p s = .next t) : Inv t := by
  obtain ⟨hh, hc, hs, hf0, hf, hcap⟩ := (reassemblerSound_of_awaitingPayload hx).1 h.reassembler
  rw [Machine.feedLoop_payload passes hx hf hp] at ht
  split at ht
  · rename_i hle
    have hb := hs.filled (bs := (chunk.drop p).take s.payBuf.free) (k := 0) (by
      rw [List.length_take_of_le (by rwa [List.length_drop]), Nat.zero_add])
    exact (h.emit ho s.hdrBuf _ s.status.rxst (hb.2.trans_le hcap)).feedDone ht
  · rename_i hgt
    have hb := hs.filled (bs := chunk.drop p) (k := s.payBuf.free - (chunk.length - p)) (by
      rw [List.length_drop, Nat.sub_add_cancel (Nat.le_of_not_le hgt)])
    refine RunInv.feedDone (h.reassembling ho (x := s.status.rxst) ?_) ht
    refine (reassemblerSound_of_awaitingPayload ?_).2 ⟨hh, hc, hb, hf0, Nat.sub_pos_of_lt (Nat.lt_of_not_le hgt), hcap⟩
    exact hx

/-- A bad header closes the session, whatever the buffers hold (44_framer.md R128). -/
theorem RunInv.feedViolation (ho : SessionOpen s) {r : CloseReason} (hr : r ≠ .notClosed) {hb pb : BoundedBuffer}
    {x : RxPhase} {t : State} (ht : feedViolation r (s.reassembling hb pb x) = .next t) : Inv t := by
  rw [Machine.feedViolation, closeSession_reassembling ho] at ht
  cases ht
  exact (h.close hr).ended .protocolViolation

/-- From inside a header the loop of RX_FEED keeps the invariant (44_framer.md R128, R130). -/
theorem RunInv.feedLoop_header (ho : SessionOpen s) (hx : s.status.rxst = .awaitingHeader) {chunk : List Byte}
    {passes : Nat} {t : State} (ht : feedLoop chunk (passes + 3) 0 s = .next t) : Inv t := by
  obtain ⟨hs, hc, hp, hf, he⟩ := (reassemblerSound_of_awaitingHeader hx).1 h.reassembler
  rw [Machine.feedLoop_header (passes + 2) hx hf] at ht
  split at ht
  · rename_i hlt
    have hb := hs.filled (bs := chunk) (k := s.hdrBuf.free - chunk.length) (Nat.sub_add_cancel (Nat.le_of_lt hlt))
    refine RunInv.feedDone (h.reassembling ho (x := s.status.rxst) ?_) ht
    refine (reassemblerSound_of_awaitingHeader ?_).2 ⟨hb, hc, hp, Nat.sub_pos_of_lt hlt, he⟩
    exact hx
  · rename_i hge
    have hb := hs.filled (bs := chunk.take s.hdrBuf.free) (k := 0) (by
      rw [List.length_take_of_le (Nat.le_of_not_lt hge), Nat.zero_add])
    dsimp only at ht
    split at ht
    · exact h.feedViolation ho (hb := ⟨_, 0, _⟩) (pb := s.payBuf) (x := s.status.rxst) (by decide) ht
    · rename_i len _
      split at ht
      · exact h.feedViolation ho (hb := ⟨_, 0, _⟩) (pb := s.payBuf) (x := s.status.rxst) (by decide) ht
      · rename_i hlen
        have hpos : 0 < len.toNat := Nat.pos_of_ne_zero fun h0 => hlen (BitVec.eq_of_toNat_eq h0)
        have hr := (reassemblerSound_of_awaitingPayload
          (s := s.reassembling _ (resetBuffer len.toNat) .awaitingPayload) rfl).2
          ⟨hb, hc, resetBuffer_sound _, rfl, hpos, Nat.le_of_lt_succ len.isLt⟩
        exact (h.reassembling ho hr).feedLoop_payload ho rfl (Nat.le_of_not_lt hge) ht

/-- RX_FEED keeps the invariant (44_framer.md R130). -/
theorem RunInv.rxFeed {t : State} (ht : execRxFeed s = .next t) : Inv t := by
  unfold execRxFeed at ht
  split at ht
  · cases ht
    exact h.ended _
  · rename_i ho
    split at ht
    · cases ht
      exact h.ended _
    · split at ht
      · cases ht
        exact h.ended _
      · cases hx : s.status.rxst with
        | awaitingHeader => exact h.feedLoop_header (not_not.1 ho) hx ht
        | awaitingPayload => exact h.feedLoop_payload (not_not.1 ho) hx (Nat.zero_le _) ht

/-- A command from a state with the invariant ends in one. -/
theorem RunInv.exec {i : Instr} {t : State} (ht : exec i s = .next t) : Inv t := by
  cases commandEnds_of_exec ht with
  | refused c _ _ => exact h.ended c
  | moved v m rd wr _ hm hrd hwr =>
    refine RunInv.ended ?_ .ok
    exact { h.store hm with reader_inside := hrd h.reader_inside, writer_inside := hwr h.writer_inside }
  | wrote bs _ hf =>
    obtain ⟨hstart, -, hstop⟩ := h.writer_inside
    have hm := h.store (.stored s.wr.pos bs (Nat.le_trans hf hstop))
    refine RunInv.ended ?_ .ok
    exact { hm with writer_inside := ⟨Nat.le_add_right_of_le hstart, hf, hstop⟩ }
  | read v p b _ hp =>
    obtain ⟨hstart, hpos, hstop⟩ := h.reader_inside
    obtain ⟨hle, hend⟩ := hp hpos
    refine RunInv.ended ?_ .ok
    exact { h with reader_inside := ⟨Nat.le_trans hstart hle, hend, hstop⟩ }
  | endOfStream _ =>
    refine RunInv.ended ?_ .endOfStream
    exact { h with }
  | sessInit enc dec _ => exact (h.opened enc dec).ended .ok
  | closed r c _ hr ho => exact closeSession_of_open r s ho ▸ (h.close hr).ended c
  | events | irqEn | hdrCheck =>
    refine RunInv.ended ?_ .ok
    exact { h with }
  | rxDst v hv =>
    refine RunInv.ended ?_ .ok
    exact { h with rxDst_fits := hv }
  | encrypted v m _ ho hm =>
    refine RunInv.ended ?_ .ok
    exact { (h.store hm).setIvs ho _ _ with }
  | decrypted m ho hm =>
    refine RunInv.ended ?_ .ok
    exact { (h.store hm).setIvs ho _ _ with }
  | gathered | emitted => exact h.rxFeed ht
  | rxRelease =>
    refine RunInv.ended ?_ .ok
    exact { h with reader_inside := emptyWindow_inside _, session := h.session.releaseFrame }

end

theorem defaultParams_legal : defaultParams.Legal :=
  ⟨by decide, by decide, by decide, .inr (.inr rfl), by decide +kernel⟩

/-- The reset values meet the invariant, for all legal parameters and any XMEM that fits them (10_state.md R46). -/
theorem inv_of_reset {p : Params} {m : Memory} (hp : p.Legal) (hwf : Memory.wf m) (hm : ∀ c ∈ m, c.1 < p.xmemSize) :
    Inv { State.reset with params := p, xmem := m } where
  params_legal := hp
  xmem_wf := hwf
  xmem_inside := hm
  reader_inside := emptyWindow_inside p
  writer_inside := emptyWindow_inside p
  rxDst_fits := Nat.le_trans (by decide : 0 + 65535 ≤ 65539) hp.1
  reassembler := reassemblerSound_of_empty rfl rfl rfl
  session := ⟨rfl, rfl, rfl, rfl, rfl, rfl⟩
  not_busy := rfl
  no_cmd := rfl

theorem emptyMemory_wf : Memory.wf [] := ⟨.nil, nofun⟩

/-- Settles O11: `inv_of_reset` at the default parameters and an XMEM that lists no byte. -/
theorem resetStateSatisfiesInv : Obligations.ResetStateSatisfiesInv :=
  inv_of_reset defaultParams_legal emptyMemory_wf nofun

/-- The host's reset leaves XMEM with bytes below XMEM_SIZE only (entry 7). -/
theorem Inv.hostReset {s : State} (h : Inv s) : Inv (hostReset s) := by
  have hl : RangeLegal s.params 0 ((Config.resetXmem s.resets).take s.params.xmemSize).length := by simp
  exact { inv_of_reset h.params_legal (wf_writeBytes emptyMemory_wf 0 _) (writeBytes_inside nofun hl) with }

/-- A word that runs, a command or not, ends in a state with the invariant (30_encoding.md R78). -/
theorem RunInv.runCommand {s t : State} (h : RunInv s) (w : U32) (ht : runCommand (Machine.latchCmd w s) = .next t) :
    Inv t := by
  unfold Machine.runCommand at ht
  rw [latchCmd_cmd] at ht
  dsimp only at ht
  split at ht
  · exact (h.latchCmd w).exec ht
  · cases ht
    exact (h.latchCmd w).ended .illegalCommand

/-- Each host action that has a move keeps the invariant (70_reset_and_hazards.md R172). -/
theorem Inv.hostAct {s t : State} (h : Inv s) {a : HostAction} (ht : hostAct a s = .next t) : Inv t := by
  cases a with
  | writeOperand k v =>
    cases ht
    cases k <;> exact { h with }
  | writeCmd w => exact h.runInv.runCommand w ht
  | writeXmem a bs =>
    simp only [Machine.hostAct] at ht
    split at ht
    · rename_i hr
      cases ht
      exact { h.runInv.store (.stored a bs hr) with not_busy := h.not_busy, no_cmd := h.no_cmd }
    · cases ht
  | readXmem a n =>
    simp only [Machine.hostAct] at ht
    split at ht
    · cases ht
      exact h
    · cases ht
  | reset =>
    cases ht
    exact h.hostReset
  | writeResult | readOperand | readResult | observeIrq =>
    cases ht
    exact h

/-- Settles O12: an idle step keeps the state, and `Inv.hostAct` covers every host action, with `RunInv.exec` for the
commands. -/
theorem stepKeepsInv : Obligations.StepKeepsInv := by
  intro s t h ht
  cases hq : s.hostQueue with
  | nil =>
    rw [step, hq] at ht
    cases ht
    exact h
  | cons a rest =>
    rw [step_eq_hostAct hq h.not_busy] at ht
    have hr : Inv { s with hostQueue := rest } := { h with }
    exact hr.hostAct ht

end Sys2Proof.Machine
end

section
/-! PROOFS. The rules about every command, read off from what a command can do (10_state.md R22 to R35). -/

namespace Sys2Proof.Machine

theorem CommandEnds.isNext {s : State} {i : Instr} {o : Outcome} (h : CommandEnds s i o) :
    ∃ t, o = .next t ∧ t.status.busy = false ∧ t.cmd = none := by
  cases h <;> exact ⟨_, rfl, rfl, rfl⟩

/-- Settles O13: every case of `exec_ends` is a next state that `State.ended` has ended. -/
theorem everyCommandEnds : Obligations.EveryCommandEnds := fun i s => (exec_ends i s).isNext

/-- Settles O14, by the cases of `exec_ends`: only those of CSR_WRITE name `RX_DST` or `IRQ_EN`, and none names the
others. -/
theorem operandRegistersNeverWritten : Obligations.OperandRegistersNeverWritten := by
  intro i s t h
  cases commandEnds_of_exec h with
  | irqEn v => exact ⟨rfl, rfl, rfl, rfl, rfl, rfl, fun _ => rfl, fun hi => absurd rfl hi⟩
  | rxDst v _ => exact ⟨rfl, rfl, rfl, rfl, rfl, rfl, fun hi => absurd rfl hi, fun _ => rfl⟩
  | _ => exact ⟨rfl, rfl, rfl, rfl, rfl, rfl, fun _ => rfl, fun _ => rfl⟩

/-- The commands that write `STATUS.OK`, one by one (10_state.md R25). -/
theorem not_writesOk {i : Instr} (hint : ∀ safe width, i ≠ .rdInt safe width) (hl : ∀ safe, i ≠ .rdLstr safe)
    (hp : ∀ safe n, i ≠ .rdPstr safe n) (hf : i ≠ .rdFully) : writesOk i = false := by
  cases i with
  | rdInt safe width => exact absurd rfl (hint safe width)
  | rdLstr safe => exact absurd rfl (hl safe)
  | rdPstr safe n => exact absurd rfl (hp safe n)
  | rdFully => exact absurd rfl hf
  | _ => rfl

/-- Settles O19, by the cases of `exec_ends`: a read writes `OK` and END_OF_STREAM clears it, and only the
named commands write `V` and `FRAME`. -/
theorem flagsWrittenOnlyByNamedCommands : Obligations.FlagsWrittenOnlyByNamedCommands := by
  intro i s t h
  cases commandEnds_of_exec h with
  | read v p b hi _ =>
    refine ⟨fun h1 h2 h3 h4 => ?_, fun _ _ => rfl, fun _ _ _ => rfl, fun hc => absurd rfl hc⟩
    rw [not_writesOk h1 h2 h3 h4] at hi
    cases hi
  | endOfStream hi =>
    refine ⟨fun h1 h2 h3 h4 => ?_, fun _ _ => rfl, fun _ _ _ => rfl, fun _ => ⟨rfl, rfl, .inr ⟨rfl, rfl⟩⟩⟩
    rw [not_writesOk h1 h2 h3 h4] at hi
    cases hi
  | sessInit enc dec _ =>
    exact ⟨fun _ _ _ _ => rfl, fun _ hi => absurd rfl hi, fun _ _ hi => absurd rfl hi, fun hc => absurd rfl hc⟩
  | hdrCheck v b _ =>
    exact ⟨fun _ _ _ _ => rfl, fun hi _ => absurd rfl hi, fun _ _ _ => rfl, fun hc => absurd rfl hc⟩
  | emitted v m rd _ =>
    exact ⟨fun _ _ _ _ => rfl, fun _ _ => rfl, fun hi _ _ => absurd rfl hi, fun hc => absurd rfl hc⟩
  | rxRelease =>
    exact ⟨fun _ _ _ _ => rfl, fun _ _ => rfl, fun _ hi _ => absurd rfl hi, fun hc => absurd rfl hc⟩
  | _ => exact ⟨fun _ _ _ _ => rfl, fun _ _ => rfl, fun _ _ _ => rfl, fun _ => ⟨rfl, rfl, .inl rfl⟩⟩

/-- Settles O20, by the cases of `exec_ends`: both IVs change by SESS_INIT and by a close, and one of them by the
commands that advance it. -/
theorem ivChangesOnlyByShuffleInitOrClose : Obligations.IvChangesOnlyByShuffleInitOrClose := by
  intro i s t h
  cases commandEnds_of_exec h with
  | sessInit enc dec _ => exact ⟨.inr (.inl rfl), .inr (.inl rfl)⟩
  | closed r c _ _ ho => exact ⟨.inr (.inr (.inl ⟨ho, rfl, rfl⟩)), .inr (.inr (.inl ⟨ho, rfl, rfl⟩))⟩
  | encrypted v m hi _ _ => exact ⟨.inr (.inr (.inr ⟨hi.imp_left And.left, rfl⟩)), .inl rfl⟩
  | decrypted m _ _ => exact ⟨.inl rfl, .inr (.inr (.inr ⟨.inl rfl, rfl⟩))⟩
  | emitted v m rd _ => exact ⟨.inl rfl, .inr (.inr (.inr ⟨.inr rfl, rfl⟩))⟩
  | _ => exact ⟨.inl rfl, .inl rfl⟩

/-- Settles O21, by the cases of `exec_ends`: SESS_INIT needs a session that is not open, and a close leaves none. -/
theorem masksFixedWhileSessionOpen : Obligations.MasksFixedWhileSessionOpen := by
  intro i s t h ho ho'
  cases commandEnds_of_exec h with
  | sessInit enc dec hn => exact absurd ho hn
  | closed r c _ _ _ => cases ho'
  | _ => exact ⟨rfl, rfl⟩

theorem exec_of_not_open {i : Instr} {s : State} (hi : i ∈ cipherCommands) (ho : s.status.sess ≠ .opened) :
    exec i s = .next (s.ended .sessionState) := by
  simp only [cipherCommands, List.mem_cons, List.not_mem_nil, or_false] at hi
  rcases hi with rfl | rfl | rfl | rfl | rfl | rfl <;> exact if_pos ho

/-- SESS_INIT that ends with OK has opened a session (40_session_control.md R85). -/
theorem execSessInit_opens {s t : State} (h : execSessInit s = .next t) (hc : t.status.cc = .ok) :
    t.status.sess = .opened := by
  unfold execSessInit at h
  split at h
  · cases h
    cases hc
  · split at h
    · cases h
      cases hc
    · cases h
      rfl

/-- The session moves by SESS_INIT, SESS_CLOSE and RX_FEED alone (10_state.md R35). -/
theorem session_moves {i : Instr} {s t : State} (h : exec i s = .next t) :
    t.status.sess = s.status.sess ∨
    (i = .sessInit ∧ s.status.sess ≠ .opened ∧ t.status.sess = .opened) ∨
    ((i = .sessClose ∨ i = .rxFeed) ∧ s.status.sess = .opened ∧ t.status.sess = .closed) := by
  cases commandEnds_of_exec h with
  | sessInit enc dec ho => exact .inr (.inl ⟨rfl, ho, rfl⟩)
  | closed r c hi _ ho => exact .inr (.inr ⟨hi.imp And.left And.left, ho, rfl⟩)
  | _ => exact .inl rfl

/-- SESSION_STATE is only ever a refusal (10_state.md R35). -/
theorem sessionRefuses_of_cc {i : Instr} {s t : State} (h : exec i s = .next t) (hc : t.status.cc = .sessionState) :
    SessionRefuses i s := by
  cases commandEnds_of_exec h with
  | refused c _ hs => exact hs hc
  | closed r c hi _ _ =>
    obtain rfl : c = .sessionState := hc
    simp at hi
  | _ => cases hc

/-- Settles O22: the parts are `execSessInit_opens`, `session_moves`, `exec_of_not_open` and `sessionRefuses_of_cc`. -/
theorem sessionMovesOnlyAsListed : Obligations.SessionMovesOnlyAsListed := by
  refine ⟨rfl, fun s t h hc => execSessInit_opens h hc, fun s ho => ?_, fun i s t h => session_moves h,
    fun s ho i hi => exec_of_not_open hi ho, fun i s t h hc => sessionRefuses_of_cc h hc⟩
  exact ⟨_, congrArg complete (closeSession_of_open .hostClose s ho), rfl⟩

/-- Settles O23, by the cases of `exec_ends`: an emitted frame sets one event, a close the other, and only CSR_WRITE of
EVENTS clears. -/
theorem eventsMoveOnlyAsListed : Obligations.EventsMoveOnlyAsListed := by
  intro i s t h
  cases commandEnds_of_exec h with
  | events v => refine ⟨fun hi => absurd rfl hi, ?_, ?_, ?_, ?_⟩ <;> simp_all [clearEvents]
  | closed r c _ _ ho =>
    exact ⟨fun _ => ⟨id, fun _ => rfl⟩, fun h0 h1 => (nomatch h0.symm.trans h1), fun _ _ => ⟨ho, rfl⟩, fun _ _ => rfl,
      fun h0 h1 => (nomatch h0.symm.trans h1)⟩
  | emitted v m rd ho =>
    exact ⟨fun _ => ⟨fun _ => rfl, id⟩, fun _ _ => ⟨rfl, rfl⟩, fun h0 h1 => (nomatch h0.symm.trans h1),
      fun _ hc => (nomatch ho.symm.trans hc), fun _ _ => rfl⟩
  | _ => refine ⟨fun _ => ⟨id, id⟩, ?_, ?_, ?_, ?_⟩ <;> simp_all

/-- A command that writes R0 and ends with OK is not one that O24 speaks of. -/
theorem not_leavesR0 {i : Instr} (hi : writesR0 i = true) : ¬ (writesR0 i = false ∨ Code.ok ≠ .ok) := by simp [hi]

/-- Settles O24, by the cases of `exec_ends`: where R0 takes a new value the command is one of the column and the code
is OK. -/
theorem resultRegisterWrittenAsListed : Obligations.ResultRegisterWrittenAsListed := by
  intro i s t h hr
  cases commandEnds_of_exec h with
  | moved v m rd wr hv _ _ _ => exact hv.elim id fun hi => absurd hr (not_leavesR0 hi)
  | wrote bs hi _ => exact absurd hr (not_leavesR0 hi)
  | read v p b hi _ => exact absurd hr (not_leavesR0 (writesR0_of_writesOk hi))
  | encrypted v m hi _ _ =>
    obtain ⟨-, hv⟩ | rfl := hi
    · exact hv
    · exact absurd hr (not_leavesR0 rfl)
  | hdrCheck | gathered | emitted => exact absurd hr (not_leavesR0 rfl)
  | _ => rfl

end Sys2Proof.Machine
end

section
/-! PROOFS. Host actions, reset values and the interrupt output (10_state.md R22 to R29, R46, 70_reset_and_hazards.md
R161, R172). -/

namespace Sys2Proof.Machine

/-- A word that decodes runs as its command (30_encoding.md R78). -/
theorem runCommand_latchCmd {w : U32} {i : Instr} (hd : decodeWord w = .ok i) (s : State) :
    runCommand (latchCmd w s) = exec i (latchCmd w s) := by
  simp [runCommand, hd]

/-- Settles O4: the step latches the word and runs its command. -/
theorem stepRunsDecodedCommand : Obligations.StepRunsDecodedCommand := fun _ _ _ _ hq hb hd =>
  (step_eq_hostAct hq hb).trans (runCommand_latchCmd hd _)

/-- The interrupt output is the AND of the two registers as words, on their two live bits (10_state.md R29). -/
theorem irq_eq_decide (s : State) : irq s = decide (eventWord s.events &&& eventWord s.irqEn ≠ 0) := by
  have hbits : ∀ f c f' c' : Bool,
      ((f && f') || (c && c')) = decide (eventWord ⟨f, c⟩ &&& eventWord ⟨f', c'⟩ ≠ 0) := by decide
  exact hbits s.events.frame s.events.closing s.irqEn.frame s.irqEn.closing

/-- Settles O25, by `irq_eq_decide`. -/
theorem irqIsMaskedEvents : Obligations.IrqIsMaskedEvents := fun s => by rw [irq_eq_decide, decide_eq_true_iff]

/-- Settles O10: `State.reset` is written from these values. -/
theorem resetStateHasSpecValues : Obligations.ResetStateHasSpecValues :=
  ⟨rfl, rfl, rfl, rfl, rfl, rfl, rfl, rfl, rfl, rfl, rfl, rfl⟩

/-- Settles O9: but for its free values the host's reset leaves `State.reset`. -/
theorem hostResetRestoresResetValues : Obligations.HostResetRestoresResetValues := by
  intro s rest hq hb
  obtain ⟨hst, hcmd, hev, hen, hirq, hdst, henc, hdec, hhdr, hpay, hrd, hwr⟩ := resetStateHasSpecValues
  exact ⟨hostReset { s with hostQueue := rest }, step_eq_hostAct hq hb, rfl, rfl, hcmd, hst, hev, hen, hirq, hdst, henc,
    hdec, hhdr, hpay, hrd, hwr⟩

/-- A host access that leaves XMEM faults (entry 6). -/
theorem hostAct_writeXmem_of_illegal {s : State} {x : Nat} {bs : List Byte} (h : s.params.xmemSize < x + bs.length) :
    hostAct (.writeXmem x bs) s = .fault .xmemAddressAbsent :=
  if_neg (Nat.not_le_of_lt h)

theorem hostAct_readXmem_of_legal {s : State} {x n : Nat} (h : RangeLegal s.params x n) :
    hostAct (.readXmem x n) s = .next s :=
  if_pos h

theorem hostAct_readXmem_of_illegal {s : State} {x n : Nat} (h : s.params.xmemSize < x + n) :
    hostAct (.readXmem x n) s = .fault .xmemAddressAbsent :=
  if_neg (Nat.not_le_of_lt h)

theorem getElem?_readBytes {m : Memory} {a n j : Nat} (h : j < n) :
    (readBytes m a n)[j]? = some (readByte m (a + j)) := by
  rw [List.getElem?_eq_getElem (by rwa [length_readBytes]), getElem_readBytes]

/-- While BUSY = 1 the host has no move (93_implementation_defined.md U5). -/
theorem step_of_busy {s : State} {a : HostAction} {rest : List HostAction} (hq : s.hostQueue = a :: rest)
    (hb : s.status.busy = true) : step s = .refused .hostAccessWhileBusy := by
  simp [step, hq, hb]

/-- Settles O7: one fact of `hostAct` and one of `hostSees` for each action. -/
theorem hostActionsReachTheirTarget : Obligations.HostActionsReachTheirTarget := by
  intro s a rest hq
  refine ⟨step_of_busy hq, fun hb => ?_⟩
  rw [step_eq_hostAct hq hb]
  refine ⟨?_, ?_, ?_, ?_, ?_, ?_, ?_, ?_, ?_, ?_, ?_, ?_, ?_, ?_, ?_⟩
  · rintro v rfl; rfl
  · rintro v rfl; rfl
  · rintro v rfl; rfl
  · rintro (⟨v, rfl⟩ | ⟨k, rfl⟩ | rfl | rfl) <;> rfl
  · rintro x n rfl hx
    exact hostAct_readXmem_of_legal hx
  · rintro x n rfl hx
    exact hostAct_readXmem_of_illegal hx
  · rintro x bs rfl hx
    exact ⟨_, storesAt_writeBytes rfl, hostAct_writeXmem_of_legal hx⟩
  · rintro x bs rfl hx
    exact hostAct_writeXmem_of_illegal hx
  · rintro rfl; rfl
  · rintro rfl; rfl
  · rintro rfl; rfl
  · rintro rfl; rfl
  · rintro rfl
    exact congrArg HostSees.irq (irq_eq_decide s)
  · rintro x n rfl -
    exact ⟨readBytes s.xmem x n, rfl, length_readBytes _ _ _, fun j hj => getElem?_readBytes hj⟩
  · rintro (⟨k, v, rfl⟩ | ⟨v, rfl⟩ | ⟨x, bs, rfl⟩) <;> rfl

end Sys2Proof.Machine
end

section
/-! PROOFS. CSR_READ (10_state.md R25, R33, R43, R44, 40_session_control.md R87). -/

namespace Sys2Proof.Machine

/-- The word of CSR_READ is its opcode with the CSR's number in `IMM16` (30_encoding.md R70, R76). -/
theorem decode_csrRead {c : Nat} (h : c < 2 ^ 16) : decodeWord (BitVec.ofNat 32 (0x03000000 + c)) = .ok (.csrRead c) :=
  Laws.RoundTrip.csrRead c (decide_eq_true h)

/-- CSR_READ of a mapped number gives that CSR's value and changes nothing else (40_session_control.md R87). -/
theorem exec_csrRead_of_some {n : Nat} {c : Csr} (h : csrOfNumber n = some c) (s : State) :
    exec (.csrRead n) s = .next (State.ended { s with r0 := csrValue s c } .ok) := by
  simp only [exec, execCsrRead, h]
  rfl

/-- CSR_READ of a reserved number ends with CSR_ACCESS (40_session_control.md R87). -/
theorem exec_csrRead_of_none {n : Nat} (h : csrOfNumber n = none) (s : State) :
    exec (.csrRead n) s = .next (s.ended .csrAccess) := by
  simp only [exec, execCsrRead, h]
  rfl

/-- The numbers of the 19 CSRs (10_state.md R44). -/
def csrNumbers : List Nat :=
  [0x000, 0x001, 0x002, 0x003, 0x010, 0x011, 0x012, 0x013, 0x020, 0x021, 0x022, 0x028, 0x029, 0x02A, 0x030, 0x031,
    0x032, 0x0F0, 0x0F1]

/-- Every number outside the map is reserved (10_state.md R44). -/
theorem csrOfNumber_of_not_mem {n : Nat} (h : n ∉ csrNumbers) : csrOfNumber n = none := by
  unfold csrOfNumber
  split
  case h_20 => rfl
  all_goals exact absurd (by decide) h

/-- `STATUS` as a number, each field at its place (10_state.md R25). -/
theorem toNat_statusWord (t : Status) : (statusWord t).toNat =
    (codeNumber t.cc).toNat + 2 ^ 8 * t.ok.toNat + 2 ^ 9 * t.v.toNat + 2 ^ 10 * t.frame.toNat +
      2 ^ 11 * (sessionNumber t.sess).toNat + 2 ^ 13 * (rxPhaseNumber t.rxst).toNat +
      2 ^ 14 * (closeReasonNumber t.closeReason).toNat + 2 ^ 16 * t.busy.toNat := by
  simp only [statusWord, toNat_append, BitVec.toNat_ofBool, BitVec.toNat_ofNat]
  ring

theorem toNat_eventWord (e : EventBits) : (eventWord e).toNat = e.frame.toNat + 2 * e.closing.toNat := by
  simp only [eventWord, toNat_append, BitVec.toNat_ofBool, BitVec.toNat_ofNat]
  ring

theorem toNat_csrField {v n : Nat} (hn : n ≤ 64) : (csrField v n).toNat = v % 2 ^ n := by
  rw [csrField, BitVec.toNat_ofNat, Nat.mod_eq_of_lt]
  exact Nat.lt_of_lt_of_le (Nat.mod_lt _ (by positivity)) (Nat.pow_le_pow_right (by decide) hn)

theorem toNat_blockLenView {v : Nat} (h : v ≤ 2 ^ 32) : (blockLenView v).toNat = v := by
  rw [blockLenView, if_pos h, BitVec.toNat_ofNat, Nat.mod_eq_of_lt (by omega)]

theorem toNat_csrView_setWidth (m : U16) : (csrView (m.setWidth 32)).toNat = m.toNat := by
  have := m.isLt
  rw [toNat_csrView, BitVec.toNat_setWidth, Nat.mod_eq_of_lt (by omega)]

/-- CSR_READ of a CSR whose value is the number `v` (40_session_control.md R87). -/
theorem exec_csrRead_gives {s : State} {n v : Nat} {c : Csr} (hc : csrOfNumber n = some c)
    (hv : (csrValue s c).toNat = v) :
    ∃ x : U64, x.toNat = v ∧ exec (.csrRead n) s = .next (State.ended { s with r0 := x } .ok) :=
  ⟨csrValue s c, hv, exec_csrRead_of_some hc s⟩

/-- `STATUS` reads with `BUSY` = 0 (10_state.md R27). -/
theorem toNat_csrValue_status (s : State) : (csrValue s .status).toNat =
    (codeNumber s.status.cc).toNat + 2 ^ 8 * s.status.ok.toNat + 2 ^ 9 * s.status.v.toNat +
      2 ^ 10 * s.status.frame.toNat + 2 ^ 11 * (sessionNumber s.status.sess).toNat +
      2 ^ 13 * (rxPhaseNumber s.status.rxst).toNat + 2 ^ 14 * (closeReasonNumber s.status.closeReason).toNat := by
  rw [csrValue, toNat_csrView, toNat_statusWord]
  simp only [Bool.toNat_false, Nat.mul_zero, Nat.add_zero]

theorem toNat_csrView_eventWord (e : EventBits) :
    (csrView (eventWord e)).toNat = e.frame.toNat + 2 * e.closing.toNat :=
  (toNat_csrView _).trans (toNat_eventWord e)

theorem toNat_csrView_packBytes4 (q : Bytes4) : (csrView (packBytes4 q)).toNat = bytesValue q :=
  (toNat_csrView _).trans (toNat_packBytes4 q)

/-- Settles O29: the value of each CSR by its view, in the order of the map, and `csrOfNumber_of_not_mem` for the
other numbers. -/
theorem csrReadGivesMappedValue : Obligations.CsrReadGivesMappedValue := by
  refine ⟨fun c => decode_csrRead, fun s hp => ?_⟩
  dsimp only
  refine ⟨?_, fun c hc => exec_csrRead_of_none (csrOfNumber_of_not_mem hc) s, fun v => toNat_u32View,
    fun v => toNat_blockLenView⟩
  have hsize : (BitVec.ofNat 64 s.params.xmemSize).toNat = s.params.xmemSize := by
    obtain ⟨-, h, -⟩ := hp
    rw [BitVec.toNat_ofNat, Nat.mod_eq_of_lt (by omega)]
  simp only [List.forall_mem_cons]
  exact ⟨exec_csrRead_gives rfl (toNat_csrValue_status s),
    exec_csrRead_gives rfl (toNat_csrView_eventWord s.events),
    exec_csrRead_gives rfl (toNat_csrView_eventWord s.irqEn),
    exec_csrRead_gives rfl (toNat_csrView s.rxDst),
    exec_csrRead_gives rfl (toNat_csrView_packBytes4 s.enc.iv),
    exec_csrRead_gives rfl (toNat_csrView_setWidth s.enc.mask),
    exec_csrRead_gives rfl (toNat_csrView_packBytes4 s.dec.iv),
    exec_csrRead_gives rfl (toNat_csrView_setWidth s.dec.mask),
    exec_csrRead_gives rfl (toNat_csrView (u32View s.rd.start)),
    exec_csrRead_gives rfl (toNat_csrView (u32View s.rd.stop)),
    exec_csrRead_gives rfl (toNat_csrView (u32View s.rd.pos)),
    exec_csrRead_gives rfl (toNat_csrView (u32View s.wr.start)),
    exec_csrRead_gives rfl (toNat_csrView (u32View s.wr.stop)),
    exec_csrRead_gives rfl (toNat_csrView (u32View s.wr.pos)),
    exec_csrRead_gives rfl (toNat_csrField (by decide)),
    exec_csrRead_gives rfl (toNat_csrField (by decide)),
    exec_csrRead_gives rfl (toNat_csrField (by decide)),
    exec_csrRead_gives rfl hsize,
    exec_csrRead_gives rfl rfl, nofun⟩

end Sys2Proof.Machine
end

section
/-! PROOFS. Bits [63:32] of the operand registers matter to no command but the 8-byte WR_INT (10_state.md R22,
30_encoding.md R75). -/

namespace Sys2Proof.Machine

/-- `s` with other values in the operand registers. -/
def State.withRegs (x y z : U64) (s : State) : State := { s with a0 := x, a1 := y, a2 := z }

/-- `f` of the next state, if there is one. -/
def mapNext (f : State → State) : Outcome → Outcome
  | .next t => .next (f t)
  | .fault r => .fault r
  | .refused r => .refused r

section
variable {v v' : U64} (h : v.toNat % 2 ^ 32 = v'.toNat % 2 ^ 32)
include h

theorem regField_low32_congr : regField v 31 0 = regField v' 31 0 := by rw [regField_low32, regField_low32, h]

theorem setWidth_congr {k : Nat} (hk : k ≤ 32) : v.setWidth k = v'.setWidth k := by
  apply BitVec.eq_of_toNat_eq
  rw [BitVec.toNat_setWidth, BitVec.toNat_setWidth, ← Nat.mod_mod_of_dvd v.toNat (Nat.pow_dvd_pow 2 hk), h,
    Nat.mod_mod_of_dvd _ (Nat.pow_dvd_pow 2 hk)]

theorem getLsbD_congr {k : Nat} (hk : k < 32) : v.getLsbD k = v'.getLsbD k := by
  have hb := congrArg (fun u => u.getLsbD k) (setWidth_congr h (Nat.le_refl 32))
  simpa [hk] using hb

end

section
variable {s : State} {x y z : U64}

theorem operand0_withRegs (hx : x.toNat % 2 ^ 32 = s.a0.toNat % 2 ^ 32) :
    operand0 (s.withRegs x y z) = operand0 s := regField_low32_congr hx

theorem operand1_withRegs (hy : y.toNat % 2 ^ 32 = s.a1.toNat % 2 ^ 32) :
    operand1 (s.withRegs x y z) = operand1 s := regField_low32_congr hy

theorem operand2_withRegs (hz : z.toNat % 2 ^ 32 = s.a2.toNat % 2 ^ 32) :
    operand2 (s.withRegs x y z) = operand2 s := regField_low32_congr hz

theorem operandBytes0_withRegs (hx : x.toNat % 2 ^ 32 = s.a0.toNat % 2 ^ 32) :
    operandBytes0 (s.withRegs x y z) = operandBytes0 s :=
  congrArg unpackBytes4 (setWidth_congr hx (Nat.le_refl 32))

theorem operandBytes1_withRegs (hy : y.toNat % 2 ^ 32 = s.a1.toNat % 2 ^ 32) :
    operandBytes1 (s.withRegs x y z) = operandBytes1 s :=
  congrArg unpackBytes4 (setWidth_congr hy (Nat.le_refl 32))

theorem protocolVersion_withRegs (hz : z.toNat % 2 ^ 32 = s.a2.toNat % 2 ^ 32) :
    protocolVersion (s.withRegs x y z) = protocolVersion s := setWidth_congr hz (by decide)

theorem complementEnc_withRegs (hz : z.toNat % 2 ^ 32 = s.a2.toNat % 2 ^ 32) :
    complementEnc (s.withRegs x y z) = complementEnc s := getLsbD_congr hz (by decide)

theorem complementDec_withRegs (hz : z.toNat % 2 ^ 32 = s.a2.toNat % 2 ^ 32) :
    complementDec (s.withRegs x y z) = complementDec s := getLsbD_congr hz (by decide)

theorem eventBitsOf_congr {v v' : U64} (h : v.toNat % 2 ^ 32 = v'.toNat % 2 ^ 32) : eventBitsOf v = eventBitsOf v' := by
  rw [eventBitsOf, eventBitsOf, getLsbD_congr h (by decide), getLsbD_congr h (by decide)]

theorem widthBytes_le_four {width : Width} (h : width ≠ .w8) : widthBytes width ≤ 4 := by
  cases width with
  | w8 => exact absurd rfl h
  | w1 | w2 | w4 => decide

/-- A value of at most 4 bytes lies in bits [31:0] (30_encoding.md R75). -/
theorem valueOperand_withRegs (hx : x.toNat % 2 ^ 32 = s.a0.toNat % 2 ^ 32) {n : Nat} (hn : n ≤ 4) :
    valueOperand (s.withRegs x y z) n = valueOperand s n := by
  have h := congrArg BitVec.toNat (setWidth_congr hx (k := 8 * n) (by omega))
  rwa [BitVec.toNat_setWidth, BitVec.toNat_setWidth] at h

end

theorem closeSession_withRegs (r : CloseReason) (x y z : U64) (s : State) :
    closeSession r (s.withRegs x y z) = (closeSession r s).withRegs x y z := by
  by_cases ho : SessionOpen s
  · rw [closeSession_of_open r s ho, closeSession_of_open r (s.withRegs x y z) ho]
    rfl
  · rw [closeSession_of_not_open r s ho, closeSession_of_not_open r (s.withRegs x y z) ho]

theorem feedViolation_withRegs {x y z : U64} {s s' : State} (r : CloseReason)
    (hs : s' = s.withRegs x y z := by rfl) :
    feedViolation r s' = mapNext (State.withRegs x y z) (feedViolation r s) :=
  hs ▸ congrArg (raise .protocolViolation) (closeSession_withRegs r x y z s)

/-- The loop of RX_FEED reads no operand register (44_framer.md R130). -/
theorem feedLoop_withRegs {x y z : U64} (chunk : List Byte) (passes p : Nat) {s s' : State}
    (hs : s' = s.withRegs x y z := by rfl) :
    feedLoop chunk passes p s' = mapNext (State.withRegs x y z) (feedLoop chunk passes p s) := by
  induction passes generalizing p s s' with
  | zero => exact hs ▸ rfl
  | succ passes ih =>
    subst hs
    rw [feedLoop, feedLoop, apply_ite (mapNext _), apply_ite (mapNext _)]
    congr 2
    dsimp only [State.withRegs]
    cases s.status.rxst with
    | awaitingHeader =>
      dsimp only
      rw [apply_ite (mapNext _)]
      congr 1
      cases validateHeader (headerBytes (appendFill s.hdrBuf chunk p (chunk.length - p)).1) s.dec.iv s.dec.mask with
      | none => exact feedViolation_withRegs .invalidHeader
      | some len =>
        dsimp only
        rw [apply_ite (mapNext _)]
        congr 1
        · exact feedViolation_withRegs .zeroLength
        · exact ih _ rfl
    | awaitingPayload => exact ih _ rfl

theorem csrValue_withRegs (x y z : U64) (s : State) (c : Csr) : csrValue (s.withRegs x y z) c = csrValue s c := by
  cases c <;> rfl

/-- Putting values with the same low halves into the operand registers changes nothing else about what a command does
(10_state.md R22): the branches are taken on the same conditions, and each one copies the registers. -/
theorem exec_withRegs {i : Instr} (hi : i ≠ .wrInt .w8) {s : State} {x y z : U64}
    (hx : x.toNat % 2 ^ 32 = s.a0.toNat % 2 ^ 32) (hy : y.toNat % 2 ^ 32 = s.a1.toNat % 2 ^ 32)
    (hz : z.toNat % 2 ^ 32 = s.a2.toNat % 2 ^ 32) :
    exec i (s.withRegs x y z) = mapNext (State.withRegs x y z) (exec i s) := by
  have h0 := operand0_withRegs (y := y) (z := z) hx
  have h1 := operand1_withRegs (x := x) (z := z) hy
  have h2 := operand2_withRegs (x := x) (y := y) hz
  have hb0 := operandBytes0_withRegs (y := y) (z := z) hx
  have hb1 := operandBytes1_withRegs (x := x) (z := z) hy
  cases i with
  | sessInit =>
    simp only [exec, execSessInit, h0, h1, hb0, hb1, protocolVersion_withRegs hz, complementEnc_withRegs hz,
      complementDec_withRegs hz, apply_ite (mapNext _)]
    rfl
  | sessClose => exact congrArg complete (closeSession_withRegs _ x y z s)
  | csrRead csr =>
    simp only [exec, execCsrRead, csrValue_withRegs]
    cases csrOfNumber csr <;> rfl
  | csrWrite csr =>
    have he : eventBitsOf (s.withRegs x y z).a0 = eventBitsOf s.a0 := eventBitsOf_congr hx
    simp only [exec, execCsrWrite, writeRxDst, h0, he]
    split
    case h_4 =>
      rw [apply_ite (mapNext _)]
      rfl
    all_goals rfl
  | tpEnc | tpDec =>
    simp only [exec, execTpEnc, execTpDec, transformRange, h0, h1, apply_ite (mapNext _)]
    rfl
  | shuffle =>
    simp only [exec, execShuffle, hb0]
    rfl
  | ksXform side =>
    simp only [exec, execKsXform, h0, h1, apply_ite (mapNext _)]
    cases side <;> rfl
  | hdrBuild =>
    simp only [exec, execHdrBuild, h0, apply_ite (mapNext _)]
    rfl
  | hdrCheck =>
    simp only [exec, execHdrCheck, hb0, apply_ite (mapNext _)]
    dsimp only [State.withRegs]
    cases validateHeader (operandBytes0 s) s.dec.iv s.dec.mask <;> rfl
  | txPack =>
    simp only [exec, execTxPack, h0, h1, h2, apply_ite (mapNext _)]
    rfl
  | rxFeed =>
    simp only [exec, execRxFeed, h0, h1, apply_ite (mapNext _)]
    rw [feedLoop_withRegs (s := s)]
    rfl
  | rxRelease => rfl
  | rdWin | wrWin =>
    simp only [exec, execRdWin, execWrWin, h0, h1, apply_ite (mapNext _)]
    rfl
  | rdInt | rdLstr | rdPstr =>
    simp only [exec, execRdInt, execRdLstr, execRdPstr, underrun, apply_ite (mapNext _)]
    rfl
  | rdFully => rfl
  | wrInt width =>
    have hn : widthBytes width ≤ 4 := widthBytes_le_four fun hw => hi (congrArg Instr.wrInt hw)
    simp only [exec, execWrInt, writeField, valueOperand_withRegs hx hn, apply_ite (mapNext _)]
    rfl
  | wrLstr | wrPstr | wrBytes =>
    simp only [exec, execWrLstr, execWrPstr, execWrBytes, writeField, h0, h1, apply_ite (mapNext _)]
    rfl

/-- Settles O15, by `exec_withRegs`: the command answers the same next state but for the registers put in. -/
theorem upperOperandBitsIgnored : Obligations.UpperOperandBitsIgnored := by
  intro i s t x y z hi hx hy hz h
  have hw := exec_withRegs hi hx hy hz
  rw [h] at hw
  exact hw

end Sys2Proof.Machine
end

section
/-! PROOFS. The commands that do not touch XMEM, and the readers (20_memory.md R48). -/

namespace Sys2Proof.Machine

/-- `s` with other contents of XMEM. -/
def State.withXmem (m : Memory) (s : State) : State := { s with xmem := m }

theorem closeSession_withXmem (r : CloseReason) (m : Memory) (s : State) :
    closeSession r (s.withXmem m) = (closeSession r s).withXmem m := by
  by_cases ho : SessionOpen s
  · rw [closeSession_of_open r s ho, closeSession_of_open r (s.withXmem m) ho]
    rfl
  · rw [closeSession_of_not_open r s ho, closeSession_of_not_open r (s.withXmem m) ho]

/-- No CSR shows XMEM (10_state.md R44). -/
theorem csrValue_withXmem (m : Memory) (s : State) (c : Csr) : csrValue (s.withXmem m) c = csrValue s c := by
  cases c <;> rfl

/-- A command outside R48's list carries the contents of XMEM through unread (20_memory.md R48): its branches are taken
on conditions that do not name them. -/
theorem exec_withXmem {i : Instr} (hi : touchesXmem i = false) (m : Memory) (s : State) :
    exec i (s.withXmem m) = mapNext (State.withXmem m) (exec i s) := by
  cases i with
  | sessInit =>
    simp only [exec, execSessInit, apply_ite (mapNext _)]
    rfl
  | sessClose => exact congrArg complete (closeSession_withXmem _ m s)
  | csrRead csr =>
    simp only [exec, execCsrRead, csrValue_withXmem]
    cases csrOfNumber csr <;> rfl
  | csrWrite csr =>
    simp only [exec, execCsrWrite, writeRxDst]
    split
    case h_4 =>
      rw [apply_ite (mapNext _)]
      rfl
    all_goals rfl
  | hdrBuild =>
    simp only [exec, execHdrBuild, apply_ite (mapNext _)]
    rfl
  | hdrCheck =>
    have hb : operandBytes0 (s.withXmem m) = operandBytes0 s := rfl
    simp only [exec, execHdrCheck, hb, apply_ite (mapNext _)]
    dsimp only [State.withXmem]
    cases validateHeader (operandBytes0 s) s.dec.iv s.dec.mask <;> rfl
  | rdWin | wrWin =>
    simp only [exec, execRdWin, execWrWin, apply_ite (mapNext _)]
    rfl
  | shuffle | rxRelease | rdFully => rfl
  | _ => cases hi

/-- Such a command leaves XMEM as it was: putting the present contents in changes nothing. -/
theorem xmem_of_not_touchesXmem {i : Instr} {s t : State} (hi : touchesXmem i = false) (h : exec i s = .next t) :
    t.xmem = s.xmem := by
  have hw : Host.Outcome.next t = mapNext (State.withXmem s.xmem) (.next t) := h ▸ exec_withXmem hi s.xmem s
  injection hw with ht
  calc
    t.xmem = (t.withXmem s.xmem).xmem := congrArg State.xmem ht
    _ = s.xmem := rfl

section
variable {s t : State}

theorem xmem_of_underrun {safe : Bool} (h : underrun safe s = .next t) : t.xmem = s.xmem := by
  rw [underrun_ends] at h
  cases h
  cases safe <;> rfl

theorem xmem_of_readDone {v : U64} {k : Nat} (h : readDone v k s = .next t) : t.xmem = s.xmem := by
  cases h
  rfl

/-- A reader ends with a refusal, an underrun or a read, none of which writes XMEM (45_codec.md R134 to R137). -/
theorem xmem_of_readsXmemOnly {i : Instr} (hi : readsXmemOnly i = true) (h : exec i s = .next t) :
    t.xmem = s.xmem := by
  cases i with
  | rdInt safe width =>
    simp only [exec, execRdInt] at h
    split at h
    · exact xmem_of_readDone h
    · exact xmem_of_underrun h
  | rdLstr safe =>
    simp only [exec, execRdLstr] at h
    split at h
    · exact xmem_of_underrun h
    · split at h
      · exact xmem_of_underrun h
      · exact xmem_of_readDone h
  | rdPstr safe n =>
    simp only [exec, execRdPstr] at h
    split at h
    · cases h
      rfl
    · split at h
      · exact xmem_of_underrun h
      · exact xmem_of_readDone h
  | _ => cases hi

end

/-- Settles O16, by `exec_withXmem` for the commands outside the list and `xmem_of_readsXmemOnly` for the readers. -/
theorem onlyNamedCommandsTouchXmem : Obligations.OnlyNamedCommandsTouchXmem := by
  intro i s t h
  refine ⟨fun hi => ⟨xmem_of_not_touchesXmem hi h, fun m => ?_⟩, fun hi => xmem_of_readsXmemOnly hi h⟩
  have hw := exec_withXmem hi m s
  rwa [h] at hw

end Sys2Proof.Machine
end

section
/-! PROOFS. Decoder and encoder (30_encoding.md R70 to R79). -/

namespace Sys2Proof

/-- The decoder reads back the word of every well-formed command (30_encoding.md R79). -/
theorem decodeWord_encode {i : Instr} (hi : i.wellFormed = true) : decodeWord (encode i) = .ok i := by
  cases i with
  | sessInit => exact Laws.RoundTrip.sessInit hi
  | sessClose => exact Laws.RoundTrip.sessClose hi
  | csrRead csr => exact Laws.RoundTrip.csrRead csr hi
  | csrWrite csr => exact Laws.RoundTrip.csrWrite csr hi
  | tpEnc => exact Laws.RoundTrip.tpEnc hi
  | tpDec => exact Laws.RoundTrip.tpDec hi
  | shuffle => exact Laws.RoundTrip.shuffle hi
  | ksXform side => exact Laws.RoundTrip.ksXform side hi
  | hdrBuild => exact Laws.RoundTrip.hdrBuild hi
  | hdrCheck => exact Laws.RoundTrip.hdrCheck hi
  | txPack => exact Laws.RoundTrip.txPack hi
  | rxFeed => exact Laws.RoundTrip.rxFeed hi
  | rxRelease => exact Laws.RoundTrip.rxRelease hi
  | rdWin => exact Laws.RoundTrip.rdWin hi
  | rdInt safe width => exact Laws.RoundTrip.rdInt safe width hi
  | rdLstr safe => exact Laws.RoundTrip.rdLstr safe hi
  | rdPstr safe n => exact Laws.RoundTrip.rdPstr safe n hi
  | rdFully => exact Laws.RoundTrip.rdFully hi
  | wrWin => exact Laws.RoundTrip.wrWin hi
  | wrInt width => exact Laws.RoundTrip.wrInt width hi
  | wrLstr => exact Laws.RoundTrip.wrLstr hi
  | wrPstr n => exact Laws.RoundTrip.wrPstr n hi
  | wrBytes => exact Laws.RoundTrip.wrBytes hi

/-- Fields that decode have RSV = 0, and their command is well formed and has the word built from them: a field that
its opcode does not use is 0 (30_encoding.md R78). -/
theorem encode_of_decodeFields {f : Fields} {i : Instr} (hs : f.s < 2) (hd : f.d < 2) (hw : f.w < 4)
    (hi : f.imm < 2 ^ 16) (h : decodeFields f = .ok i) :
    f.rsv = 0 ∧ i.wellFormed = true ∧ encode i = wordOf f.opc f.s f.d f.w f.imm := by
  unfold decodeFields at h
  split at h
  · cases h
  next hr =>
    refine ⟨not_not.1 hr, ?_⟩
    split at h
    case h_24 => cases h
    all_goals
      next ho =>
        obtain ⟨hu, rfl⟩ := withUnused_ok.1 h
        simp only [List.forall_mem_cons, List.not_mem_nil, false_imp_iff, implies_true, and_true] at hu
        simp [encode, Instr.wellFormed, ho, hu, hi, bitOfSafe_beq_one hs, bitOfSide_sideOfBit hd,
          codeOfWidth_widthOfCode hw, -Nat.reducePow]

/-- A word that decodes is the word of a well-formed command (30_encoding.md R79). -/
theorem encode_of_decodeWord {w : U32} {i : Instr} (h : decodeWord w = .ok i) :
    i.wellFormed = true ∧ encode i = w := by
  obtain ⟨-, -, hs, hd, hw, hi⟩ := fieldsOf_bounds w
  obtain ⟨hr, hwf, he⟩ := encode_of_decodeFields hs hd hw hi h
  exact ⟨hwf, he.trans (wordOf_fieldsOf w hr)⟩

/-- Settles O1: `encode_of_decodeWord` one way, `decodeWord_encode` the other. -/
theorem decodeEncodeAgree : Obligations.DecodeEncodeAgree := by
  intro w i
  refine ⟨encode_of_decodeWord, ?_⟩
  rintro ⟨hi, rfl⟩
  exact decodeWord_encode hi

/-- Settles O3: each word is the encoding of its command. -/
theorem sampleWordsDecode : Obligations.SampleWordsDecode := by
  simp only [Obligations.SampleWordsDecode, decodeEncodeAgree _ _]
  decide

/-! The match and mask table -/

/-- A row whose mask leaves `IMM16` free selects a word whatever its `IMM16` (30_encoding.md R77). -/
theorem selects_wordOf_of_imm_free {r : OpcodeRow} {opc s imm : Nat} (ho : opc < 2 ^ 8) (hs : s < 2)
    (hi : imm < 2 ^ 16) (hr : (fieldsOf r.matchBits).rsv = 0) (hm : (fieldsOf r.maskBits).imm = 0)
    (h : wordOf opc s 0 0 0 &&& r.maskBits = r.matchBits) : wordOf opc s 0 0 imm &&& r.maskBits = r.matchBits := by
  rw [selects_iff_fields r _ hr, fieldsOf_wordOf ho hs (by decide) (by decide) (by decide)] at h
  rw [selects_iff_fields r _ hr, fieldsOf_wordOf ho hs (by decide) (by decide) hi]
  simpa only [hm, Nat.and_zero] using h

/-- The word of a well-formed command is selected by the row of its mnemonic (30_encoding.md R77). -/
theorem exists_row_selects_encode {i : Instr} (hi : i.wellFormed = true) :
    ∃ r ∈ opcodeRows, r.mnemonic = mnemonicOf i ∧ encode i &&& r.maskBits = r.matchBits := by
  cases i with
  | csrRead csr =>
    exact ⟨⟨"CSR_READ", 0x03000000, 0xFFFF0000⟩, by decide, rfl, selects_wordOf_of_imm_free (by decide) (by decide)
      (of_decide_eq_true hi) (by decide) (by decide) (by decide)⟩
  | csrWrite csr =>
    exact ⟨⟨"CSR_WRITE", 0x04000000, 0xFFFF0000⟩, by decide, rfl, selects_wordOf_of_imm_free (by decide) (by decide)
      (of_decide_eq_true hi) (by decide) (by decide) (by decide)⟩
  | rdPstr safe n =>
    exact ⟨⟨"RD_PSTR", 0x43000000, 0xFFF70000⟩, by decide, rfl, selects_wordOf_of_imm_free (by decide)
      (bitOfSafe_lt safe) (of_decide_eq_true hi) (by decide) (by decide) (by cases safe <;> decide)⟩
  | wrPstr n =>
    exact ⟨⟨"WR_PSTR", 0x4B000000, 0xFFFF0000⟩, by decide, rfl, selects_wordOf_of_imm_free (by decide) (by decide)
      (of_decide_eq_true hi) (by decide) (by decide) (by decide)⟩
  | ksXform side => cases side <;> decide
  | rdInt safe width => cases safe <;> cases width <;> decide
  | rdLstr safe => cases safe <;> decide
  | wrInt width => cases width <;> decide
  | _ => decide

/-- A word that decodes is selected by the row of its command's mnemonic (30_encoding.md R79). -/
theorem exists_row_selects_of_decodeWord {w : U32} {i : Instr} (h : decodeWord w = .ok i) :
    ∃ r ∈ opcodeRows, r.mnemonic = mnemonicOf i ∧ w &&& r.maskBits = r.matchBits := by
  obtain ⟨hi, rfl⟩ := encode_of_decodeWord h
  exact exists_row_selects_encode hi

/-- A mask that covers a field keeps it (30_encoding.md R70, R77). -/
theorem fieldsOf_and_full (w : U32) :
    (fieldsOf w).opc &&& 255 = (fieldsOf w).opc ∧ (fieldsOf w).rsv &&& 15 = (fieldsOf w).rsv ∧
      (fieldsOf w).s &&& 1 = (fieldsOf w).s ∧ (fieldsOf w).d &&& 1 = (fieldsOf w).d ∧
      (fieldsOf w).w &&& 3 = (fieldsOf w).w ∧ (fieldsOf w).imm &&& 65535 = (fieldsOf w).imm := by
  obtain ⟨ho, hr, hs, hd, hw, hi⟩ := fieldsOf_bounds w
  exact ⟨Nat.and_two_pow_sub_one_of_lt_two_pow ho, Nat.and_two_pow_sub_one_of_lt_two_pow hr,
    Nat.and_two_pow_sub_one_of_lt_two_pow (n := 1) hs, Nat.and_two_pow_sub_one_of_lt_two_pow (n := 1) hd,
    Nat.and_two_pow_sub_one_of_lt_two_pow (n := 2) hw, Nat.and_two_pow_sub_one_of_lt_two_pow hi⟩

/-- A word that a row selects decodes to a command of the row's mnemonic (30_encoding.md R77): its opcode is the row's,
and the fields that the mask covers are those that the decoder wants 0. -/
theorem decodeWord_of_selects {r : OpcodeRow} (hr : r ∈ opcodeRows) {w : U32} (h : w &&& r.maskBits = r.matchBits) :
    ∃ i, decodeWord w = .ok i ∧ mnemonicOf i = r.mnemonic := by
  have hrsv : ∀ r ∈ opcodeRows, (fieldsOf r.matchBits).rsv = 0 := by decide
  rw [selects_iff_fields r w (hrsv r hr)] at h
  have hfull := fieldsOf_and_full w
  rw [decodeWord]
  generalize fieldsOf w = f at h hfull
  simp only [opcodeRows, List.cons_append, List.nil_append, List.mem_cons, List.not_mem_nil, or_false] at hr
  rcases hr with rfl | rfl | rfl | rfl | rfl | rfl | rfl | rfl | rfl | rfl | rfl | rfl | rfl | rfl | rfl | rfl | rfl |
    rfl | rfl | rfl | rfl | rfl | rfl
  all_goals
    simp only [fieldsOf, wordField, BitVec.reduceToNat, Nat.reducePow, Nat.reduceMod, Nat.reduceDiv, Nat.reduceAdd,
      Nat.reduceSub, Nat.and_zero, hfull, true_and, and_true] at h
    simp [decodeFields, mnemonicOf, h]

/-- The rows have different mnemonics (30_encoding.md R77). -/
theorem row_eq_of_mnemonic_eq : ∀ r ∈ opcodeRows, ∀ r' ∈ opcodeRows, r.mnemonic = r'.mnemonic → r = r' := by
  decide

/-- Settles O2: a selected word decodes to the row's mnemonic (`decodeWord_of_selects`), a decoded word is selected by
the row of its mnemonic (`exists_row_selects_of_decodeWord`), and the mnemonic names the row. -/
theorem opcodeRowsMatchDecoder : Obligations.OpcodeRowsMatchDecoder := by
  refine ⟨fun r hr w => ⟨decodeWord_of_selects hr, ?_⟩, fun w => ⟨?_, fun hn => ?_⟩, fun w r hr r' hr' h h' => ?_⟩
  · rintro ⟨i, hi, hmn⟩
    obtain ⟨r', hr', hmn', h⟩ := exists_row_selects_of_decodeWord hi
    rwa [row_eq_of_mnemonic_eq r hr r' hr' (hmn.symm.trans hmn'.symm)]
  · rintro ⟨e, he⟩ r hr h
    obtain ⟨i, hi, -⟩ := decodeWord_of_selects hr h
    cases he.symm.trans hi
  · cases hd : decodeWord w with
    | error e => exact ⟨e, rfl⟩
    | ok i =>
      obtain ⟨r, hr, -, h⟩ := exists_row_selects_of_decodeWord hd
      exact absurd h (hn r hr)
  · obtain ⟨i, hi, hmn⟩ := decodeWord_of_selects hr h
    obtain ⟨i', hi', hmn'⟩ := decodeWord_of_selects hr' h'
    obtain rfl : i = i' := Except.ok.inj (hi.symm.trans hi')
    exact row_eq_of_mnemonic_eq r hr r' hr' (hmn.symm.trans hmn')

end Sys2Proof

namespace Sys2Proof.Machine

/-- A word that no command has ends with ILLEGAL_COMMAND (30_encoding.md R78). -/
theorem runCommand_latchCmd_of_error {w : U32} {e : Reject} (hd : decodeWord w = .error e) (s : State) :
    runCommand (latchCmd w s) = raise .illegalCommand (latchCmd w s) := by
  simp [runCommand, hd]

/-- Settles O5: by O2 the word does not decode, and the end of the command empties what the latch filled. -/
theorem illegalWordHasNoOtherEffect : Obligations.IllegalWordHasNoOtherEffect := by
  intro s w rest hq hb hn
  obtain ⟨-, hillegal, -⟩ := opcodeRowsMatchDecoder
  obtain ⟨e, he⟩ := (hillegal w).2 hn
  exact (step_eq_hostAct hq hb).trans (runCommand_latchCmd_of_error he _)

end Sys2Proof.Machine
end

section
/-! PROOFS. The session commands and CSR_WRITE (40_session_control.md R84 to R88). -/

namespace Sys2Proof.Machine

/-- Bits [31:0] of a register as a number (30_encoding.md R75). -/
theorem operand0_eq (s : State) : operand0 s = s.a0.toNat % 2 ^ 32 := regField_low32 s.a0

theorem operand1_eq (s : State) : operand1 s = s.a1.toNat % 2 ^ 32 := regField_low32 s.a1

theorem protocolVersion_eq (s : State) : protocolVersion s = s.a2.extractLsb' 0 16 :=
  BitVec.setWidth_eq_extractLsb' (by decide)

/-- SESS_INIT with an IV of 0 is refused (40_session_control.md R85). -/
theorem execSessInit_of_zero {s : State} (ho : ¬ SessionOpen s) (h : operand0 s = 0 ∨ operand1 s = 0) :
    execSessInit s = raise .boundsViolation s :=
  (if_neg ho).trans (if_pos h)

/-- SESS_INIT that passes its checks opens the session (40_session_control.md R85). -/
theorem execSessInit_of_nonzero {s : State} (ho : ¬ SessionOpen s) (h0 : operand0 s ≠ 0) (h1 : operand1 s ≠ 0) :
    execSessInit s = complete
      { s with
        enc := ⟨operandBytes0 s, versionMask (protocolVersion s) (complementEnc s)⟩
        dec := ⟨operandBytes1 s, versionMask (protocolVersion s) (complementDec s)⟩
        status := { s.status with
          sess := .opened, rxst := .awaitingHeader, closeReason := .notClosed, frame := false, v := false }
        hdrBuf := BoundedBuffer.emptyHeader
        payBuf := BoundedBuffer.emptyPayload } :=
  (if_neg ho).trans (if_neg (not_or_intro h0 h1))

/-- Settles O26: `execSessInit` in each of its three cases, with the operands written out as bits of the registers. -/
theorem sessInitOpensSession : Obligations.SessInitOpensSession := by
  refine ⟨Laws.RoundTrip.sessInit rfl, fun s => ?_⟩
  rw [← operand0_eq, ← operand1_eq, ← protocolVersion_eq, ← operandBytes0_eq, ← operandBytes1_eq]
  exact ⟨fun ho => if_pos ho, execSessInit_of_zero, execSessInit_of_nonzero⟩

/-- Settles O28, by what `closeSession` does with and without an open session. -/
theorem sessCloseClosesOnce : Obligations.SessCloseClosesOnce :=
  ⟨Laws.RoundTrip.sessClose rfl, fun s =>
    ⟨fun ho => congrArg complete (closeSession_of_not_open .hostClose s ho),
      fun ho => congrArg complete (closeSession_of_open .hostClose s ho)⟩⟩

/-- The word of CSR_WRITE is its opcode with the CSR's number in `IMM16` (30_encoding.md R70, R76). -/
theorem decode_csrWrite {c : Nat} (h : c < 2 ^ 16) :
    decodeWord (BitVec.ofNat 32 (0x04000000 + c)) = .ok (.csrWrite c) :=
  Laws.RoundTrip.csrWrite c (decide_eq_true h)

/-- `A0[31:0]` as a word. -/
theorem ofNat_operand0 (s : State) : BitVec.ofNat 32 (operand0 s) = s.a0.extractLsb' 0 32 := by
  apply BitVec.eq_of_toNat_eq
  simp [operand0_eq]

/-- Every number but those of EVENTS, IRQ_EN and RX_DST is read-only or reserved (10_state.md R44). -/
theorem execCsrWrite_of_not_writable {c : Nat} (h1 : c ≠ 0x001) (h2 : c ≠ 0x002) (h3 : c ≠ 0x003) (s : State) :
    execCsrWrite c s = raise .csrAccess s := by
  unfold execCsrWrite
  split
  case h_2 h => exact absurd (csrOfNumber_eq_events h) h1
  case h_3 h => exact absurd (csrOfNumber_eq_irqEn h) h2
  case h_4 h => exact absurd (csrOfNumber_eq_rxDst h) h3
  all_goals rfl

/-- Settles O30: EVENTS and IRQ_EN take the written bits as they are, RX_DST has the one check of `writeRxDst`, and
`execCsrWrite_of_not_writable` covers the other numbers. -/
theorem csrWriteFollowsAccess : Obligations.CsrWriteFollowsAccess := by
  refine ⟨fun c => decode_csrWrite, fun s => ?_⟩
  rw [← operand0_eq, ← ofNat_operand0]
  exact ⟨rfl, rfl, fun h => if_pos h, fun h => if_neg (Nat.not_le_of_lt h),
    fun c h1 h2 h3 => execCsrWrite_of_not_writable h1 h2 h3 s⟩

end Sys2Proof.Machine
end

section
/-! PROOFS. How a command raises a code (60_exceptions.md R147, R149), and the header that makes RX_FEED do so
(44_framer.md R128). -/

namespace Sys2Proof.Machine

/-- How the command `i` ends in the state `s`: with OK, or with a code of its row in the table (60_exceptions.md R149)
and no effect but the two that a raise keeps (R147). -/
inductive RaiseEnds (s : State) (i : Instr) : Outcome → Prop where
  | completed (t : State) : RaiseEnds s i (.next (finish .ok t))
  /-- The command has no effect. -/
  | refused (c : Code) (hl : c ∈ codesOf i) (hk : c ≠ .endOfStream ∧ c ≠ .protocolViolation) :
      RaiseEnds s i (.next (s.ended c))
  /-- An unsafe read underran (45_codec.md R134). -/
  | underran (hl : .endOfStream ∈ codesOf i) :
      RaiseEnds s i (.next (State.ended { s with status := { s.status with ok := false } } .endOfStream))
  /-- RX_FEED closed the session (44_framer.md R128). -/
  | violated (r : CloseReason) (hi : i = .rxFeed) (ho : SessionOpen s) (hr : r = .invalidHeader ∨ r = .zeroLength) :
      RaiseEnds s i (.next (finish .protocolViolation (closeSession r s)))

section
variable {s : State} {i : Instr}

/-- A refusal with a code of the command's row. -/
theorem RaiseEnds.refusal (c : Code) (hl : c ∈ codesOf i := by simp [codesOf])
    (hk : c ≠ .endOfStream ∧ c ≠ .protocolViolation := by decide) : RaiseEnds s i (raise c s) :=
  .refused c hl hk

/-- Whatever a command checks, it ends as one of the two branches does. -/
theorem RaiseEnds.ite {p : Prop} [Decidable p] {o o' : Outcome} (h : RaiseEnds s i o) (h' : RaiseEnds s i o') :
    RaiseEnds s i (if p then o else o') := by
  split
  · exact h
  · exact h'

/-- A safe underrun completes, an unsafe one raises END_OF_STREAM (45_codec.md R134). -/
theorem RaiseEnds.underrun {safe : Bool} (hl : safe = false → .endOfStream ∈ codesOf i) :
    RaiseEnds s i (underrun safe s) := by
  cases safe with
  | true => exact .completed _
  | false => exact .underran (hl rfl)

theorem execCsrWrite_raiseEnds (csr : Nat) : RaiseEnds s (.csrWrite csr) (execCsrWrite csr s) := by
  unfold execCsrWrite
  split
  case h_2 | h_3 => exact .completed _
  case h_4 => exact .ite (.completed _) (.refusal .boundsViolation)
  all_goals exact .refusal .csrAccess

theorem execRxFeed_raiseEnds : RaiseEnds s .rxFeed (execRxFeed s) := by
  obtain ⟨-, h⟩ | ⟨-, -, h⟩ | ⟨-, -, -, h⟩ | ⟨ho, -, -, t, h, ht⟩ := execRxFeed_ends s
  · exact h ▸ .refusal .sessionState
  · exact h ▸ .refusal .framePending
  · exact h ▸ .refusal .boundsViolation
  · rw [h]
    cases ht with
    | gathered _ _ _ _ ht | emitted _ _ _ ht => exact ht ▸ .completed _
    | violated hb pb r hr ht =>
      rw [ht, closeSession_reassembling ho]
      exact .violated r rfl ho hr

end

/-- How every command ends, in every state: its checks, whatever their order and outcome, lead to one of the cases
(60_exceptions.md R147, R149). -/
theorem exec_raiseEnds (i : Instr) (s : State) : RaiseEnds s i (exec i s) := by
  cases i with
  | sessInit => exact .ite (.refusal .sessionState) (.ite (.refusal .boundsViolation) (.completed _))
  | csrRead csr =>
    simp only [exec, execCsrRead]
    split
    · exact .refusal .csrAccess
    · exact .completed _
  | csrWrite csr => exact execCsrWrite_raiseEnds csr
  | tpEnc | tpDec | rdWin | wrWin => exact .ite (.completed _) (.refusal .boundsViolation)
  | ksXform side =>
    exact .ite (.refusal .sessionState) (.ite (.refusal .boundsViolation) (.completed _))
  | hdrBuild => exact .ite (.refusal .sessionState) (.ite (.refusal .headerLength) (.completed _))
  | hdrCheck =>
    refine .ite (.refusal .sessionState) ?_
    split <;> exact .completed _
  | txPack =>
    exact .ite (.refusal .sessionState)
      (.ite (.refusal .boundsViolation) (.ite (.refusal .headerLength) (.completed _)))
  | rxFeed => exact execRxFeed_raiseEnds
  | rdInt safe width => exact .ite (.completed _) (.underrun fun h => by simp [codesOf, h])
  | rdLstr safe =>
    have hu : RaiseEnds s (.rdLstr safe) (underrun safe s) := .underrun fun h => by simp [codesOf, h]
    exact .ite hu (.ite hu (.completed _))
  | rdPstr safe n =>
    have hb : .boundsViolation ∈ codesOf (.rdPstr safe n) := by cases safe <;> simp [codesOf]
    exact .ite (.refusal .boundsViolation hb) (.ite (.underrun fun h => by simp [codesOf, h]) (.completed _))
  | wrInt width => exact .ite (.completed _) (.refusal .writeOverflow)
  | wrLstr | wrPstr | wrBytes =>
    exact .ite (.refusal .boundsViolation) (.ite (.completed _) (.refusal .writeOverflow))
  | sessClose | shuffle | rxRelease | rdFully => exact .completed _

/-- Settles O17, by the cases of `exec_raiseEnds`; the session that a violation closes is open, so
`closeSession_of_open` writes the close out. -/
theorem raiseHasNoOtherEffect : Obligations.RaiseHasNoOtherEffect := by
  intro i s t h hc
  have ht : RaiseEnds s i (.next t) := h ▸ exec_raiseEnds i s
  cases ht with
  | completed u => exact absurd rfl hc
  | refused c hl hk =>
    obtain ⟨heos, hpv⟩ := hk
    exact ⟨fun _ _ => rfl, fun h => absurd h heos, fun h => absurd h hpv⟩
  | underran hl => exact ⟨fun h _ => absurd rfl h, fun _ => rfl, nofun⟩
  | violated r hi ho hr =>
    exact ⟨fun _ h => absurd rfl h, nofun,
      fun _ => ⟨hi, ho, r, hr, congrArg (finish .protocolViolation) (closeSession_of_open r s ho)⟩⟩

/-- RX_FEED that passes its checks runs its loop over the chunk (44_framer.md R130). -/
theorem execRxFeed_of_ready {s : State} (ho : SessionOpen s) (hf : s.status.frame = false)
    (hr : RangeLegal s.params (operand0 s) (operand1 s)) :
    execRxFeed s = feedLoop (readBytes s.xmem (operand0 s) (operand1 s)) 3 0 s := by
  simp [execRxFeed, ho, hf, hr]

/-- A full header buffer holds the header that was written into it (44_framer.md R128). -/
theorem headerBytes_of_written {b : BoundedBuffer} {h : Bytes4} (hw : b.written = h.toList) : headerBytes b = h := by
  rw [headerBytes, hw]
  rfl

/-- A violation leaves nothing of what was being reassembled (44_framer.md R128, 40_session_control.md R84). -/
theorem feedViolation_reassembling {s : State} (ho : SessionOpen s) (r : CloseReason) (hb pb : BoundedBuffer)
    (x : RxPhase) : feedViolation r (s.reassembling hb pb x) = raise .protocolViolation (closeSession r s) :=
  congrArg (raise .protocolViolation) (closeSession_reassembling ho r hb pb x)

/-- Settles O46: `feedLoop_header` takes the header from the chunk, both bad answers of `validateHeader` end in
`feedViolation`, and the close forgets the buffers. -/
theorem rxFeedClosesOnBadHeader : Obligations.RxFeedClosesOnBadHeader := by
  intro s h reason ho hf hr hx hpos hle hw hbad
  have hlen : ¬ (readBytes s.xmem (operand0 s) (operand1 s)).length < s.hdrBuf.free := by
    rw [length_readBytes]
    exact Nat.not_lt_of_le hle
  have hloop : execRxFeed s = raise .protocolViolation (closeSession reason s) := by
    rw [execRxFeed_of_ready ho hf hr, feedLoop_header 2 hx hpos, if_neg hlen, take_readBytes _ _ hle, hw]
    dsimp only
    rw [headerBytes_of_written rfl]
    obtain ⟨hv, rfl⟩ | ⟨hv, rfl⟩ := hbad
    all_goals
      rw [hv]
      exact feedViolation_reassembling ho _ ⟨_, 0, _⟩ s.payBuf s.status.rxst
  rw [closeSession_of_open reason s ho] at hloop
  exact hloop

end Sys2Proof.Machine
end

section
/-! PROOFS. The byte-transposition cipher: byte by byte what a round gives, its inverse, and the two commands
(41_transposition.md R89 to R97). -/

namespace Sys2Proof.Machine

/-- The first summand of `xorSum`, in front of the others. -/
theorem xorSum_succ_eq_xor_shift (f : Nat → Byte) (n : Nat) :
    xorSum f (n + 1) = f 0 ^^^ xorSum (fun k => f (k + 1)) n := by
  induction n with
  | zero => simp [xorSum]
  | succ n ih => rw [xorSum, ih, xorSum, BitVec.xor_assoc]

theorem xorSum_congr {f g : Nat → Byte} {n : Nat} (h : ∀ k < n, f k = g k) : xorSum f n = xorSum g n := by
  induction n with
  | zero => rfl
  | succ n ih => rw [xorSum, xorSum, ih fun k hk => h k (Nat.lt_succ_of_lt hk), h n (Nat.lt_succ_self n)]

/-- What step `k` of a round XORs into `remember`, for the round's sequence `d` in its own order: byte `k` rotated left
by `a`, plus `lb` of that step (41_transposition.md R89, R90). -/
def roundTerm (a : Nat) (d : List Byte) (k : Nat) : Byte :=
  (d.getD k 0).rotateLeft a + BitVec.ofNat 8 (d.length - k)

theorem roundTerm_cons_zero (a : Nat) (b : Byte) (d : List Byte) :
    roundTerm a (b :: d) 0 = rotl8 b a + BitVec.ofNat 8 (d.length + 1) := by
  simp [roundTerm, rotl8_eq_rotateLeft]

theorem roundTerm_cons_succ (a : Nat) (b : Byte) (d : List Byte) (k : Nat) :
    roundTerm a (b :: d) (k + 1) = roundTerm a d k := by
  simp [roundTerm]

/-- `remember` after the first step of a loop carries on the sum of the steps (41_transposition.md R89, R90). -/
theorem xor_xorSum_roundTerm_cons (a : Nat) (r b : Byte) (d : List Byte) (n : Nat) :
    r ^^^ xorSum (roundTerm a (b :: d)) (n + 1) =
      ((rotl8 b a + BitVec.ofNat 8 (d.length + 1)) ^^^ r) ^^^ xorSum (roundTerm a d) n := by
  simp only [xorSum_succ_eq_xor_shift, roundTerm_cons_succ, roundTerm_cons_zero]
  rw [← BitVec.xor_assoc, BitVec.xor_comm r]

/-- The `lb` of the next step (41_transposition.md R89). -/
theorem ofNat_succ_sub_one (n : Nat) : BitVec.ofNat 8 (n + 1) - 1 = BitVec.ofNat 8 n := by
  rw [← BitVec.ofNat_add_ofNat]
  exact BitVec.add_sub_cancel _ _

/-- Byte `j` of the loop of `evenRound` (41_transposition.md R89). -/
theorem getElem?_evenLoop (r : Byte) (d : List Byte) {j : Nat} (hj : j < d.length) :
    (evenLoop r (BitVec.ofNat 8 d.length) d)[j]? =
      some (~~~ ((r ^^^ xorSum (roundTerm 3 d) (j + 1)).rotateRight ((d.length - j) % 8)) + 0x48) := by
  induction d generalizing r j with
  | nil => cases hj
  | cons b d ih =>
    rw [xor_xorSum_roundTerm_cons, evenLoop, List.length_cons, ofNat_succ_sub_one]
    cases j with
    | zero => simp [xorSum, rotr8_eq_rotateRight]
    | succ j => rw [List.getElem?_cons_succ, ih _ (Nat.lt_of_succ_lt_succ hj), Nat.add_sub_add_right]

/-- Byte `j`, in the round's own order, of the loop of `oddRound` (41_transposition.md R90). -/
theorem getElem?_oddLoop (r : Byte) (d : List Byte) {j : Nat} (hj : j < d.length) :
    (oddLoop r (BitVec.ofNat 8 d.length) d)[j]? =
      some (((r ^^^ xorSum (roundTerm 4 d) (j + 1)) ^^^ 0x13).rotateRight 3) := by
  induction d generalizing r j with
  | nil => cases hj
  | cons b d ih =>
    rw [xor_xorSum_roundTerm_cons, oddLoop, List.length_cons, ofNat_succ_sub_one]
    cases j with
    | zero => simp [xorSum, rotr8_eq_rotateRight]
    | succ j => rw [List.getElem?_cons_succ, ih _ (Nat.lt_of_succ_lt_succ hj)]

theorem getElem?_evenRound (d : List Byte) {j : Nat} (hj : j < d.length) :
    (evenRound d)[j]? =
      some (~~~ ((xorSum (roundTerm 3 d) (j + 1)).rotateRight ((d.length - j) % 8)) + 0x48) := by
  simpa [evenRound] using getElem?_evenLoop 0 d hj

/-- Read in the order of the round, a sequence starts at its last byte (41_transposition.md R90). -/
theorem roundTerm_reverse (a : Nat) (d : List Byte) {k : Nat} (hk : k < d.length) :
    roundTerm a d.reverse k = (d.getD (d.length - 1 - k) 0).rotateLeft a + BitVec.ofNat 8 (d.length - k) := by
  rw [roundTerm, List.length_reverse, List.getD_eq_getElem?_getD, List.getElem?_reverse hk,
    List.getD_eq_getElem?_getD]

/-- The odd round comes to index `j` in its step `n - 1 - j` (41_transposition.md R90). -/
theorem getElem?_oddRound (d : List Byte) {j : Nat} (hj : j < d.length) :
    (oddRound d)[j]? = some ((xorSum (roundTerm 4 d.reverse) (d.length - j) ^^^ 0x13).rotateRight 3) := by
  have hlen : (oddLoop 0 (BitVec.ofNat 8 d.length) d.reverse).length = d.length := by
    rw [length_oddLoop, List.length_reverse]
  have hstep : d.length - 1 - j < d.reverse.length := by rw [List.length_reverse]; omega
  have hloop := getElem?_oddLoop 0 d.reverse hstep
  rw [List.length_reverse, show d.length - 1 - j + 1 = d.length - j by omega] at hloop
  rw [oddRound, List.getElem?_reverse (hlen.symm ▸ hj), hlen, hloop]
  simp

theorem evenRoundInv_evenRound (d : List Byte) : evenRoundInv (evenRound d) = d := by
  rw [evenRoundInv, length_evenRound, evenRound, evenLoopInv_evenLoop]

theorem evenRound_evenRoundInv (d : List Byte) : evenRound (evenRoundInv d) = d := by
  rw [evenRound, length_evenRoundInv, evenRoundInv, evenLoop_evenLoopInv]

theorem oddRoundInv_oddRound (d : List Byte) : oddRoundInv (oddRound d) = d := by
  rw [oddRoundInv, length_oddRound, oddRound, List.reverse_reverse, oddLoopInv_oddLoop, List.reverse_reverse]

theorem oddRound_oddRoundInv (d : List Byte) : oddRound (oddRoundInv d) = d := by
  rw [oddRound, length_oddRoundInv, oddRoundInv, List.reverse_reverse, oddLoop_oddLoopInv, List.reverse_reverse]

/-- 41_transposition.md R95: the inverse rounds peel the six rounds off from the outside. -/
theorem tpDecrypt_tpEncrypt (d : List Byte) : tpDecrypt (tpEncrypt d) = d := by
  simp only [tpDecrypt, tpEncrypt, oddRoundInv_oddRound, evenRoundInv_evenRound]

/-- 41_transposition.md R95, the other way round. -/
theorem tpEncrypt_tpDecrypt (d : List Byte) : tpEncrypt (tpDecrypt d) = d := by
  simp only [tpDecrypt, tpEncrypt, oddRound_oddRoundInv, evenRound_evenRoundInv]

/-- Settles O32: `getElem?_evenRound` and `getElem?_oddRound` give the bytes of a round, whose terms `roundTerm` names;
each inverse round undoes its round on both sides, hence so do the six together. -/
theorem transpositionRoundTrip : Obligations.TranspositionRoundTrip := by
  intro d
  refine ⟨⟨length_evenRound d, fun j hj => getElem?_evenRound d hj⟩, ⟨length_oddRound d, fun j hj => ?_⟩, rfl,
    tpDecrypt_tpEncrypt d, tpEncrypt_tpDecrypt d, length_tpEncrypt d, length_tpDecrypt d⟩
  rw [getElem?_oddRound d hj, xorSum_congr fun k hk => roundTerm_reverse 4 d (k := k) (by omega)]

/-- A range that leaves XMEM is refused with no effect (41_transposition.md R96, R97). -/
theorem transformRange_of_leaves {s : State} (h : s.params.xmemSize < operand0 s + operand1 s)
    (f : List Byte → List Byte) : transformRange f s = .next (s.ended .boundsViolation) :=
  if_neg (Nat.not_le_of_lt h)

/-- On a legal range a function that keeps the length acts in place (41_transposition.md R96, R97). -/
theorem transformRange_storesAt {s : State} (h : operand0 s + operand1 s ≤ s.params.xmemSize)
    {f : List Byte → List Byte} (hf : ∀ d, (f d).length = d.length) :
    ∃ m, StoresAt s.xmem m (operand0 s) (operand1 s) (f (readBytes s.xmem (operand0 s) (operand1 s))) ∧
      transformRange f s = .next (State.ended { s with xmem := m } .ok) :=
  ⟨_, storesAt_writeBytes ((hf _).trans (length_readBytes _ _ _)), if_pos h⟩

/-- Settles O31: both commands are `transformRange`, of two functions that keep the length. -/
theorem transpositionActsInPlace : Obligations.TranspositionActsInPlace :=
  ⟨Laws.RoundTrip.tpEnc rfl, Laws.RoundTrip.tpDec rfl, fun _ =>
    ⟨fun h => ⟨transformRange_of_leaves h tpEncrypt, transformRange_of_leaves h tpDecrypt⟩,
      fun h => ⟨transformRange_storesAt h length_tpEncrypt, transformRange_storesAt h length_tpDecrypt⟩⟩⟩

end Sys2Proof.Machine
end

section
/-! PROOFS. ShuffleStep and the command SHUFFLE (42_shuffle.md R99, R103). -/

namespace Sys2Proof.Machine

/-- Rotating a word left by `n` multiplies it by `2 ^ n`, with what leaves at the top added back at the bottom
(00_scope.md R12). -/
theorem toNat_rotl32 (w : U32) {n : Nat} (hn : n ≤ 32) :
    (rotl32 w n).toNat = w.toNat * 2 ^ n % 2 ^ 32 + w.toNat / 2 ^ (32 - n) := by
  have hsplit : 2 ^ n * 2 ^ (32 - n) = 2 ^ 32 := by rw [← pow_add, Nat.add_sub_cancel' hn]
  have hhigh : w.toNat * 2 ^ n % 2 ^ 32 = 2 ^ n * (w.toNat % 2 ^ (32 - n)) := by
    rw [← hsplit, Nat.mul_comm, Nat.mul_mod_mul_left]
  have hlow : w.toNat / 2 ^ (32 - n) < 2 ^ n := Nat.div_lt_of_lt_mul (by rw [Nat.mul_comm, hsplit]; exact w.isLt)
  rw [rotl32, BitVec.toNat_or, BitVec.toNat_shiftLeft, BitVec.toNat_ushiftRight, Nat.shiftLeft_eq,
    Nat.shiftRight_eq_div_pow, hhigh, Nat.two_pow_add_eq_or_of_lt hlow]

/-- The four bytes of a word show its number (20_memory.md R55). -/
theorem bytesValue_unpackBytes4 (w : U32) : bytesValue (unpackBytes4 w) = w.toNat := by
  rw [← toNat_packBytes4, packBytes4_unpackBytes4]

/-- One pass is the four updates, merged and rotated as R99 gives them (42_shuffle.md R99). -/
theorem shufflePass_spec (p : Params) (k : Bytes4) (x : Byte) : ShufflePass p k x (shufflePass p k x) := by
  dsimp only [ShufflePass]
  rw [shufflePass, bytesValue_unpackBytes4, toNat_rotl32 _ (by decide), toNat_packBytes4]
  rfl

/-- ShuffleStep makes one pass for each byte of the IV, in order, from the seed (42_shuffle.md R99). -/
theorem shuffleStep_eq (p : Params) (iv : Bytes4) :
    shuffleStep p iv =
      shufflePass p (shufflePass p (shufflePass p (shufflePass p p.shuffleSeed iv.b0) iv.b1) iv.b2) iv.b3 := rfl

/-- SHUFFLE puts ShuffleStep of its operand in R0 and completes (42_shuffle.md R103). -/
theorem exec_shuffle (s : State) :
    exec .shuffle s = .next (State.ended
      { s with r0 := csrView (packBytes4 (shuffleStep s.params (registerBytes s.a0))) } .ok) := by
  rw [← operandBytes0_eq]
  rfl

/-- Settles O33: each of the four passes of `shuffleStep_eq` meets `shufflePass_spec`, and `exec_shuffle` is the whole
next state of SHUFFLE. -/
theorem shuffleGivesShuffleStep : Obligations.ShuffleGivesShuffleStep := by
  refine ⟨Laws.RoundTrip.shuffle rfl, fun p iv => ?_, fun s => ⟨_, toNat_csrView_packBytes4 _, exec_shuffle s⟩⟩
  rw [shuffleStep_eq]
  exact ⟨_, _, _, shufflePass_spec p _ iv.b0, shufflePass_spec p _ iv.b1, shufflePass_spec p _ iv.b2,
    shufflePass_spec p _ iv.b3⟩

end Sys2Proof.Machine
end

section
/-! PROOFS. The version mask and headers (43_rolling_iv.md R104, R113 to R118). -/

namespace Sys2Proof.Machine

/-- Settles O27: `toNat_swap16` is the exchange of the bytes, and the flag XORs in a word of ones. -/
theorem versionMaskSwapsAndComplements : Obligations.VersionMaskSwapsAndComplements := by
  intro ver
  have hfalse : versionMask ver false = swap16 ver := BitVec.xor_zero
  have htrue : versionMask ver true = ~~~ (swap16 ver) := BitVec.xor_allOnes
  rw [hfalse, htrue]
  exact ⟨toNat_swap16 ver, rfl⟩

/-- The first two bytes of a header are `ev` (43_rolling_iv.md R113). -/
theorem be16_constructHeader_first (len : U16) (iv : Bytes4) (mask : U16) :
    be16 (constructHeader len iv mask).b0 (constructHeader len iv mask).b1 = be16 iv.b2 iv.b3 ^^^ mask :=
  be16_hiByte_loByte _

/-- The last two bytes of a header are `el` (43_rolling_iv.md R113). -/
theorem be16_constructHeader_last (len : U16) (iv : Bytes4) (mask : U16) :
    be16 (constructHeader len iv mask).b2 (constructHeader len iv mask).b3 =
      be16 iv.b2 iv.b3 ^^^ mask ^^^ swap16 len :=
  be16_hiByte_loByte _

/-- A built header validates to its length under its own IV and mask (43_rolling_iv.md R115). -/
theorem validateHeader_constructHeader (len : U16) (iv : Bytes4) (mask : U16) :
    validateHeader (constructHeader len iv mask) iv mask = some len := by
  rw [validateHeader_eq_some, be16_constructHeader_first, be16_constructHeader_last]
  exact ⟨xor_xor_cancel_comm _ mask, by rw [xor_cancel_left, swap16_swap16]⟩

/-- A built header fails under every other IV and mask whose `BE16(iv[2], iv[3]) ^ mask` differs (43_rolling_iv.md
R115). -/
theorem validateHeader_constructHeader_eq_none {len mask mask' : U16} {iv iv' : Bytes4}
    (h : be16 iv.b2 iv.b3 ^^^ mask ≠ be16 iv'.b2 iv'.b3 ^^^ mask') :
    validateHeader (constructHeader len iv mask) iv' mask' = none := by
  rw [validateHeader_eq_none, be16_constructHeader_first]
  intro he
  rw [← he, xor_xor_cancel_comm_assoc] at h
  exact h rfl

/-- Settles O39: the failures follow from `validateHeader_constructHeader_eq_none`, since the XOR with the part that
agrees can be cancelled. -/
theorem headerLaws : Obligations.HeaderLaws := by
  intro len mask iv _
  refine ⟨validateHeader_constructHeader len iv mask, fun mask' hm iv' h2 h3 => ?_, fun iv' hiv => ?_,
    fun _ _ => rfl⟩
  · apply validateHeader_constructHeader_eq_none
    rw [h2, h3]
    exact fun h => hm ((BitVec.xor_right_inj _).1 h).symm
  · apply validateHeader_constructHeader_eq_none
    intro h
    obtain ⟨h2, h3⟩ := be16_inj.1 ((BitVec.xor_left_inj mask).1 h)
    exact hiv.elim (fun hne => hne h2.symm) (fun hne => hne h3.symm)

/-- A built header, byte by byte (43_rolling_iv.md R113). -/
theorem constructHeader_eq (len : U16) (iv : Bytes4) (mask : U16) :
    constructHeader len iv mask =
      ⟨iv.b2 ^^^ hiByte mask, iv.b3 ^^^ loByte mask, iv.b2 ^^^ hiByte mask ^^^ loByte len,
        iv.b3 ^^^ loByte mask ^^^ hiByte len⟩ := by
  have hev : be16 iv.b2 iv.b3 ^^^ mask = be16 (iv.b2 ^^^ hiByte mask) (iv.b3 ^^^ loByte mask) := by
    rw [← be16_xor, be16_hiByte_loByte]
  simp only [constructHeader, hev, swap16_eq len, be16_xor, hiByte_be16, loByte_be16]

theorem loByte_ofNat (n : Nat) : loByte (BitVec.ofNat 16 n) = BitVec.ofNat 8 n := by
  rw [← BitVec.toNat_inj, toNat_loByte, BitVec.toNat_ofNat, BitVec.toNat_ofNat]
  omega

theorem hiByte_ofNat (n : Nat) : hiByte (BitVec.ofNat 16 n) = BitVec.ofNat 8 (n / 256) := by
  rw [← BitVec.toNat_inj, toNat_hiByte, BitVec.toNat_ofNat, BitVec.toNat_ofNat]
  omega

/-- HDR_BUILD of a legal length puts the header in R0 and changes nothing else (43_rolling_iv.md R117). -/
theorem exec_hdrBuild_of_legal {s : State} (ho : SessionOpen s) (hl : HeaderLengthLegal (operand0 s)) :
    exec .hdrBuild s = .next (State.ended
      { s with r0 := csrView (packBytes4 (constructHeader (BitVec.ofNat 16 (operand0 s)) s.enc.iv s.enc.mask)) }
      .ok) :=
  (if_neg (not_not_intro ho)).trans (if_neg (not_not_intro hl))

/-- HDR_BUILD of any other length is refused (43_rolling_iv.md R117). -/
theorem exec_hdrBuild_of_illegal {s : State} (ho : SessionOpen s) (hl : ¬ HeaderLengthLegal (operand0 s)) :
    exec .hdrBuild s = .next (s.ended .headerLength) :=
  (if_neg (not_not_intro ho)).trans (if_pos hl)

/-- Settles O37: the two checks of HDR_BUILD in their order, and `constructHeader_eq` for the four bytes. -/
theorem hdrBuildGivesHeader : Obligations.HdrBuildGivesHeader := by
  refine ⟨Laws.RoundTrip.hdrBuild rfl, fun s => ⟨fun ho => if_pos ho,
    fun ho hl => exec_hdrBuild_of_illegal ho (by unfold HeaderLengthLegal; omega), fun ho h2 hmax => ?_⟩⟩
  refine ⟨_, ?_, exec_hdrBuild_of_legal ho ⟨h2, hmax⟩⟩
  rw [toNat_csrView_packBytes4, constructHeader_eq, loByte_ofNat, hiByte_ofNat]
  rfl

/-- The check of a header is one check for each of its first two bytes (43_rolling_iv.md R114). -/
theorem be16_xor_eq_iff (a b c d : Byte) (mask : U16) :
    be16 a b ^^^ be16 c d = mask ↔ a ^^^ c = hiByte mask ∧ b ^^^ d = loByte mask := by
  rw [be16_xor, ← be16_inj, be16_hiByte_loByte]

/-- `swap16` exchanges the bytes of `BE16` (00_scope.md R13). -/
@[simp] theorem swap16_be16 (a b : Byte) : swap16 (be16 a b) = be16 b a := by rw [swap16_eq, loByte_be16, hiByte_be16]

/-- The length that a valid header decodes to (43_rolling_iv.md R114). -/
theorem validateHeader_of_matches {h iv : Bytes4} {mask : U16} (h0 : h.b0 ^^^ iv.b2 = hiByte mask)
    (h1 : h.b1 ^^^ iv.b3 = loByte mask) :
    validateHeader h iv mask = some (be16 (h.b1 ^^^ h.b3) (h.b0 ^^^ h.b2)) := by
  rw [validateHeader_eq_some, be16_xor_eq_iff, be16_xor, swap16_be16]
  exact ⟨⟨h0, h1⟩, rfl⟩

/-- A header that does not match is invalid (43_rolling_iv.md R114). -/
theorem validateHeader_of_not_matches {h iv : Bytes4} {mask : U16}
    (hn : ¬ (h.b0 ^^^ iv.b2 = hiByte mask ∧ h.b1 ^^^ iv.b3 = loByte mask)) : validateHeader h iv mask = none := by
  rwa [validateHeader_eq_none, Ne, be16_xor_eq_iff]

/-- HDR_CHECK of a valid header (43_rolling_iv.md R118). -/
theorem exec_hdrCheck_of_valid {s : State} {len : U16} (ho : SessionOpen s)
    (hv : validateHeader (registerBytes s.a0) s.dec.iv s.dec.mask = some len) :
    exec .hdrCheck s = .next (State.ended
      { s with r0 := len.setWidth 64, status := { s.status with v := true } } .ok) := by
  rw [exec, execHdrCheck, if_neg (not_not_intro ho), operandBytes0_eq, hv]
  rfl

/-- HDR_CHECK of an invalid header completes (43_rolling_iv.md R118). -/
theorem exec_hdrCheck_of_invalid {s : State} (ho : SessionOpen s)
    (hv : validateHeader (registerBytes s.a0) s.dec.iv s.dec.mask = none) :
    exec .hdrCheck s = .next (State.ended { s with r0 := 0, status := { s.status with v := false } } .ok) := by
  rw [exec, execHdrCheck, if_neg (not_not_intro ho), operandBytes0_eq, hv]
  rfl

/-- Settles O38: HDR_CHECK follows `validateHeader`, whose answer `validateHeader_of_matches` and
`validateHeader_of_not_matches` give byte by byte. -/
theorem hdrCheckReportsValidity : Obligations.HdrCheckReportsValidity := by
  refine ⟨Laws.RoundTrip.hdrCheck rfl, fun s => ⟨fun ho => if_pos ho, fun ho h0 h1 => ?_, fun ho hn =>
    exec_hdrCheck_of_invalid ho (validateHeader_of_not_matches hn)⟩⟩
  refine ⟨_, ?_, exec_hdrCheck_of_valid ho (validateHeader_of_matches h0 h1)⟩
  rw [BitVec.toNat_setWidth_of_le (by decide), toNat_be16, Nat.mul_comm, Nat.add_comm]

end Sys2Proof.Machine
end

section
/-! PROOFS. The keystream transform and KS_XFORM (43_rolling_iv.md R109 to R112, R116). -/

namespace Sys2Proof.Machine

/-- The keystream byte at offset `o` of a segment (43_rolling_iv.md R109). -/
def segmentKeystream (keys : List Block) (iv : Bytes4) (o : Nat) : Byte :=
  blockByte ((aesWith keys)^[o / 16 + 1] (tile4 iv)) (o % 16)

/-- Byte `j` of a segment that starts at offset 0 (43_rolling_iv.md R109). -/
theorem getElem?_xorSegment_tile4 (keys : List Block) (iv : Bytes4) (d : List Byte) (j : Nat) :
    (xorSegment keys (tile4 iv) 0 d)[j]? = d[j]?.map (· ^^^ segmentKeystream keys iv j) := by
  have h := getElem?_xorSegment keys (tile4 iv) d 0 j
  rw [Nat.zero_add j] at h
  exact h

/-- Past one segment of `n` bytes, the offset among segments of `n` bytes is the same (43_rolling_iv.md R110). -/
theorem offset_past_segment (i n : Nat) : (if i < n then i else (i - n) % n) = i % n := by
  split
  · exact (Nat.mod_eq_of_lt ‹_›).symm
  · exact (Nat.mod_eq_sub_mod (Nat.le_of_not_lt ‹_›)).symm

/-- Byte `j` of a transform whose next segment is `seg` bytes long and every later one `bl`, with a segment of fuel for
each byte (43_rolling_iv.md R110, R111). -/
theorem getElem?_xorSegments (keys : List Block) (iv : Bytes4) {bl fuel seg j : Nat} {d : List Byte} (hbl : 0 < bl)
    (hseg : 0 < seg) (hfuel : d.length ≤ fuel) (hj : j < d.length) :
    (xorSegments keys iv bl fuel seg d)[j]? =
      some (d[j] ^^^ segmentKeystream keys iv (if j < seg then j else (j - seg) % bl)) := by
  induction fuel generalizing seg d j with
  | zero => omega
  | succ fuel ih =>
    cases d with
    | nil => cases hj
    | cons x d =>
      have hlen : (xorSegment keys (tile4 iv) 0 ((x :: d).take seg)).length = min seg (x :: d).length := by
        rw [length_xorSegment, List.length_take]
      rw [xorSegments]
      by_cases hs : j < seg
      · rw [if_pos hs, List.getElem?_append_left (by omega), getElem?_xorSegment_tile4, List.getElem?_take_of_lt hs,
          List.getElem?_eq_getElem hj]
        rfl
      · have hdrop : ((x :: d).drop seg).length = (x :: d).length - seg := List.length_drop
        rw [List.length_cons] at hfuel hdrop hj hlen
        rw [if_neg hs, List.getElem?_append_right (by omega), hlen, Nat.min_eq_left (by omega),
          ih hbl (by omega) (by omega), offset_past_segment, List.getElem_drop]
        simp only [Nat.add_sub_cancel' (Nat.le_of_not_lt hs)]

/-- The keystream byte that byte `j` of a transform is XORed with (43_rolling_iv.md R109 to R111). -/
def keystreamByte (p : Params) (iv : Bytes4) (j : Nat) : Byte :=
  segmentKeystream (roundKeys p.aesKey) iv (segmentOffset p j)

/-- A transform XORs each byte with the keystream byte of its index (43_rolling_iv.md R112). -/
theorem ivTransform_eq_mapIdx {p : Params} (hp : p.Legal) (iv : Bytes4) (d : List Byte) :
    (ivTransform p d iv).1 = d.mapIdx fun j x => x ^^^ keystreamByte p iv j := by
  obtain ⟨-, -, hbl, -⟩ := hp
  refine List.ext_getElem? fun j => ?_
  by_cases hj : j < d.length
  · rw [ivTransform, getElem?_xorSegments _ iv (by omega) (by omega) (Nat.le_refl _) hj, List.getElem?_mapIdx,
      List.getElem?_eq_getElem hj]
    rfl
  · rw [List.getElem?_eq_none (by rw [length_ivTransform]; omega), List.getElem?_eq_none (by simpa using hj)]

/-- Settles O35: the keystream of `ivTransform_eq_mapIdx` at index `j`. -/
theorem transformKeystreamClosedForm : Obligations.TransformKeystreamClosedForm := by
  intro p iv d j hj hp
  rw [ivTransform_eq_mapIdx hp, List.getElem?_mapIdx, List.getElem?_eq_getElem hj]
  rfl

section
variable {p : Params} (hp : p.Legal) (iv : Bytes4)
include hp

/-- The transform of zeros is the keystream (43_rolling_iv.md R112). -/
theorem getElem?_ivTransform_zeros {n j : Nat} (hj : j < n) :
    (ivTransform p (List.replicate n 0) iv).1[j]? = some (keystreamByte p iv j) := by
  rw [ivTransform_eq_mapIdx hp]
  simp [hj]

/-- The keystream depends on the IV and the length alone (43_rolling_iv.md R112). -/
theorem ivTransform_eq_zipWith (d : List Byte) :
    (ivTransform p d iv).1 = List.zipWith (· ^^^ ·) d (ivTransform p (List.replicate d.length 0) iv).1 := by
  rw [ivTransform_eq_mapIdx hp, ivTransform_eq_mapIdx hp]
  exact List.ext_getElem (by simp) fun j _ _ => by simp

/-- Under the same IV both transforms XOR with the same keystream, which cancels (43_rolling_iv.md R112). -/
theorem ivTransform_ivTransform (d : List Byte) : (ivTransform p (ivTransform p d iv).1 iv).1 = d := by
  rw [ivTransform_eq_mapIdx hp, ivTransform_eq_mapIdx hp]
  exact List.ext_getElem (by simp) fun j _ _ => by simp

/-- A keystream byte does not depend on how many bytes follow it (43_rolling_iv.md R112). -/
theorem ivTransform_take (d : List Byte) (k : Nat) :
    (ivTransform p (d.take k) iv).1 = (ivTransform p d iv).1.take k := by
  rw [ivTransform_eq_mapIdx hp, ivTransform_eq_mapIdx hp]
  exact List.ext_getElem (by simp) fun j _ _ => by simp

/-- The second segment starts with the keystream byte of byte 0, since both stand at offset 0 (43_rolling_iv.md
R112). -/
theorem keystreamByte_second_segment : keystreamByte p iv (p.blockLen - 4) = keystreamByte p iv 0 := by
  obtain ⟨-, -, hbl, -⟩ := hp
  have h0 : segmentOffset p 0 = 0 := if_pos (by omega)
  have h1 : segmentOffset p (p.blockLen - 4) = 0 := by simp [segmentOffset]
  rw [keystreamByte, keystreamByte, h0, h1]

end

/-- Settles O36: every law but the one of the next IV is read off from `ivTransform_eq_mapIdx`. -/
theorem transformLaws : Obligations.TransformLaws := by
  intro p iv d hp
  refine ⟨length_ivTransform p d iv, ivTransform_eq_zipWith hp iv d, ivTransform_ivTransform hp iv d, rfl,
    fun k _ => ivTransform_take hp iv d k, fun hlen => ?_⟩
  rw [getElem?_ivTransform_zeros hp iv hlen, getElem?_ivTransform_zeros hp iv (by omega),
    keystreamByte_second_segment hp]

/-- KS_XFORM on a range that leaves XMEM is refused (43_rolling_iv.md R116). -/
theorem exec_ksXform_of_leaves {s : State} (side : Side) (ho : SessionOpen s)
    (h : s.params.xmemSize < operand0 s + operand1 s) :
    exec (.ksXform side) s = .next (s.ended .boundsViolation) :=
  (if_neg (not_not_intro ho)).trans (if_pos (Nat.not_le_of_lt h))

/-- KS_XFORM on a legal range transforms it in place and advances the IV of its side (43_rolling_iv.md R116). -/
theorem exec_ksXform_of_legal {s : State} (side : Side) (ho : SessionOpen s)
    (h : RangeLegal s.params (operand0 s) (operand1 s)) :
    ∃ m, StoresAt s.xmem m (operand0 s) (operand1 s)
        (ivTransform s.params (readBytes s.xmem (operand0 s) (operand1 s)) (sideIv s side).iv).1 ∧
      exec (.ksXform side) s = complete
        (setSideIv side (shuffleStep s.params (sideIv s side).iv) { s with xmem := m }) :=
  ⟨_, storesAt_writeBytes ((length_ivTransform _ _ _).trans (length_readBytes _ _ _)),
    (if_neg (not_not_intro ho)).trans (if_neg (not_not_intro h))⟩

/-- Settles O34: the two checks of KS_XFORM in their order, and `exec_ksXform_of_legal` for each side. -/
theorem ksXformTransformsAndAdvances : Obligations.KsXformTransformsAndAdvances :=
  ⟨Laws.RoundTrip.ksXform .encrypt rfl, Laws.RoundTrip.ksXform .decrypt rfl, fun _ =>
    ⟨fun _ ho => if_pos ho, exec_ksXform_of_leaves,
      fun ho h => ⟨exec_ksXform_of_legal .encrypt ho h, exec_ksXform_of_legal .decrypt ho h⟩⟩⟩

end Sys2Proof.Machine
end

section
/-! PROOFS. The bounded buffer, TX_PACK and RX_RELEASE (44_framer.md R119 to R126, R131). -/

namespace Sys2Proof.Machine

/-- `appendFill` does nothing when it may take no byte (44_framer.md R119). -/
theorem appendFill_of_nothing_to_take {b : BoundedBuffer} {cnt : Nat} (h : cnt = 0 ∨ b.free = 0) (src : List Byte)
    (off : Nat) : appendFill b src off cnt = (b, 0) := by
  have hk : min b.free cnt = 0 := by omega
  simp [appendFill, hk]

/-- Settles O49: `appendFill_sound` and `resetBuffer_sound` keep the buffer sound; the rest is the definitions. -/
theorem boundedBufferLaws : Obligations.BoundedBufferLaws := by
  intro b src off cnt hb hoff
  refine ⟨rfl, appendFill_sound hb hoff, rfl, ?_, rfl, fun h => appendFill_of_nothing_to_take h src off,
    fun c => ⟨resetBuffer_sound c, rfl, rfl⟩, fun c => ⟨rfl, ?_⟩⟩
  · exact Nat.sub_add_cancel (Nat.min_le_left b.free cnt)
  · exact Nat.eq_sub_of_add_eq hb.2

/-- Settles O50: RX_RELEASE checks nothing. -/
theorem rxReleaseEmptiesReaderWindow : Obligations.RxReleaseEmptiesReaderWindow :=
  ⟨Laws.RoundTrip.rxRelease rfl, fun _ => rfl⟩

/-- What TX_PACK leaves when its checks pass: the frame at its destination, its length in R0 and the encrypt IV advanced
(44_framer.md R126). -/
def State.packed (s : State) : State :=
  State.ended
    { s with
      xmem := writeBytes s.xmem (operand2 s) (packFrame s.params (readBytes s.xmem (operand0 s) (operand1 s)) s.enc).1
      r0 := BitVec.ofNat 64 (operand1 s + 4)
      enc := { s.enc with iv := shuffleStep s.params s.enc.iv } } .ok

section
variable {s : State} (ho : SessionOpen s)
include ho

/-- TX_PACK on a range that leaves XMEM is refused (44_framer.md R126). -/
theorem exec_txPack_of_leaves
    (h : ¬ (RangeLegal s.params (operand0 s) (operand1 s) ∧ RangeLegal s.params (operand2 s) (operand1 s + 4))) :
    exec .txPack s = .next (s.ended .boundsViolation) :=
  (if_neg (not_not_intro ho)).trans (if_pos h)

variable (h0 : RangeLegal s.params (operand0 s) (operand1 s)) (h2 : RangeLegal s.params (operand2 s) (operand1 s + 4))
include h0 h2

/-- TX_PACK of a length that no header can carry is refused (44_framer.md R126). -/
theorem exec_txPack_of_illegal_length (hl : ¬ HeaderLengthLegal (operand1 s)) :
    exec .txPack s = .next (s.ended .headerLength) :=
  (if_neg (not_not_intro ho)).trans ((if_neg (not_not_intro ⟨h0, h2⟩)).trans (if_pos hl))

/-- TX_PACK that passes its checks writes the frame and advances the encrypt IV (44_framer.md R126). -/
theorem exec_txPack_of_legal (hl : HeaderLengthLegal (operand1 s)) :
    exec .txPack s = .next s.packed :=
  (if_neg (not_not_intro ho)).trans ((if_neg (not_not_intro ⟨h0, h2⟩)).trans (if_neg (not_not_intro hl)))

end

/-- A frame is the header of the payload's length and the transformed payload (44_framer.md R123). -/
theorem packFrame_readBytes (p : Params) (m : Memory) (a n : Nat) (r : RollingIv) :
    (packFrame p (readBytes m a n) r).1 =
      (constructHeader (BitVec.ofNat 16 n) r.iv r.mask).toList ++
        (ivTransform p (tpEncrypt (readBytes m a n)) r.iv).1 := by
  rw [packFrame, length_readBytes]

/-- Settles O40: the three checks of TX_PACK in their order, and `storesAt_writeBytes` for the frame it writes. -/
theorem txPackWritesFrame : Obligations.TxPackWritesFrame := by
  refine ⟨Laws.RoundTrip.txPack rfl, fun s => ⟨fun ho => if_pos ho, fun ho h => ?_, fun ho h0 h2 hl => ?_,
    fun ho h0 h2 hmin hmax => ⟨_, ?_, exec_txPack_of_legal ho h0 h2 ⟨hmin, hmax⟩⟩⟩⟩
  · exact exec_txPack_of_leaves ho (by unfold RangeLegal; omega)
  · exact exec_txPack_of_illegal_length ho h0 h2 (by unfold HeaderLengthLegal; omega)
  · rw [← packFrame_readBytes]
    exact storesAt_writeBytes (by rw [length_packFrame, length_readBytes])

/-- XORing a segment twice with its keystream cancels (43_rolling_iv.md R109). -/
theorem xorSegment_xorSegment (keys : List Block) (b : Block) (j : Nat) (d : List Byte) :
    xorSegment keys b j (xorSegment keys b j d) = d := by
  induction d generalizing b j with
  | nil => rfl
  | cons x d ih => simp [xorSegment, ih]

/-- One segment and the segments after it, also when no byte is left (43_rolling_iv.md R110). -/
theorem xorSegments_succ (keys : List Block) (iv : Bytes4) (bl fuel seg : Nat) (d : List Byte) :
    xorSegments keys iv bl (fuel + 1) seg d =
      xorSegment keys (tile4 iv) 0 (d.take seg) ++ xorSegments keys iv bl fuel bl (d.drop seg) := by
  cases d with
  | nil =>
    have hnil : xorSegments keys iv bl fuel bl [] = [] :=
      List.eq_nil_of_length_eq_zero (length_xorSegments keys iv bl fuel bl [])
    rw [List.take_nil, List.drop_nil, hnil]
    rfl
  | cons x d => rfl

/-- Two lists as long as the first `k` bytes of `d` and the rest of `d` come apart again at `k`. -/
theorem take_drop_append_of_length {a b d : List Byte} {k : Nat} (ha : a.length = (d.take k).length)
    (hb : b.length = (d.drop k).length) : (a ++ b).take k = a ∧ (a ++ b).drop k = b := by
  rw [List.length_take] at ha
  rw [List.length_drop] at hb
  by_cases hk : k ≤ d.length
  · have hak : a.length = k := by omega
    exact ⟨List.take_left' hak, List.drop_left' hak⟩
  · obtain rfl : b = [] := List.eq_nil_of_length_eq_zero (by omega)
    rw [List.append_nil, List.take_of_length_le (by omega), List.drop_of_length_le (by omega)]
    exact ⟨rfl, rfl⟩

/-- Whatever the segment lengths are, a second pass meets the same segments (43_rolling_iv.md R112). -/
theorem xorSegments_xorSegments (keys : List Block) (iv : Bytes4) (bl fuel seg : Nat) (d : List Byte) :
    xorSegments keys iv bl fuel seg (xorSegments keys iv bl fuel seg d) = d := by
  induction fuel generalizing seg d with
  | zero => rfl
  | succ fuel ih =>
    obtain ⟨ht, hd⟩ := take_drop_append_of_length (d := d) (k := seg)
      (length_xorSegment keys (tile4 iv) 0 (d.take seg)) (length_xorSegments keys iv bl fuel bl (d.drop seg))
    rw [xorSegments_succ keys iv bl fuel seg d, xorSegments_succ, ht, hd, xorSegment_xorSegment, ih,
      List.take_append_drop]

/-- The transform undoes itself for all parameters, those of 00_scope.md R8 or not (43_rolling_iv.md R112). -/
theorem ivTransform_cancel (p : Params) (d : List Byte) (iv : Bytes4) :
    (ivTransform p (ivTransform p d iv).1 iv).1 = d := by
  have h := xorSegments_xorSegments (roundKeys p.aesKey) iv p.blockLen d.length (p.blockLen - 4) d
  rwa [ivTransform, length_ivTransform]

/-- What the receiver makes of a transformed payload (44_framer.md R125). -/
theorem tpDecrypt_ivTransform_packed (p : Params) (payload : List Byte) (iv : Bytes4) :
    tpDecrypt (ivTransform p (ivTransform p (tpEncrypt payload) iv).1 iv).1 = payload := by
  rw [ivTransform_cancel, tpDecrypt_tpEncrypt]

/-- Settles O41: past its 4 header bytes a frame is the transformed payload, which `tpDecrypt_ivTransform_packed` gives
back, and `validateHeader_constructHeader` validates the header. -/
theorem unpackUndoesPack : Obligations.UnpackUndoesPack := by
  intro p payload iv mask _ _
  have hd : (packFrame p payload ⟨iv, mask⟩).1.drop 4 = (ivTransform p (tpEncrypt payload) iv).1 :=
    List.drop_left' (length_toList _)
  refine ⟨?_, rfl, _, _, _, _, List.take_left' (length_toList _), validateHeader_constructHeader _ iv mask⟩
  rw [hd, unpackFrame, tpDecrypt_ivTransform_packed]
  rfl

end Sys2Proof.Machine
end

section
/-! PROOFS. RX_FEED on one chunk, and a frame's way from TX_PACK to the reader window (44_framer.md R127 to R130). -/

namespace Sys2Proof.Machine

/-- A header's length that is not 0 leaves a payload buffer with room (44_framer.md R120). -/
theorem toNat_pos_of_ne_zero {len : U16} (h : len ≠ 0) : 0 < len.toNat :=
  Nat.pos_of_ne_zero fun h0 => h (BitVec.eq_of_toNat_eq h0)

section
variable {s : State} (ho : SessionOpen s) (hf : s.status.frame = false)
include ho hf

/-- RX_FEED on a chunk that leaves XMEM is refused (44_framer.md R130). -/
theorem exec_rxFeed_of_leaves (h : ¬ RangeLegal s.params (operand0 s) (operand1 s)) :
    exec .rxFeed s = .next (s.ended .boundsViolation) := by
  have hf' : ¬ s.status.frame = true := by rw [hf]; decide
  exact (if_neg (not_not_intro ho)).trans ((if_neg hf').trans (if_pos h))

/-- RX_FEED on a legal chunk inside a payload (44_framer.md R129, R130). -/
theorem exec_rxFeed_in_payload (hr : RangeLegal s.params (operand0 s) (operand1 s))
    (hx : s.status.rxst = .awaitingPayload) (hpos : 0 < s.payBuf.free) :
    exec .rxFeed s =
      if s.payBuf.free ≤ operand1 s then
        feedDone s.payBuf.free (emitFrame
          { s with payBuf := ⟨s.payBuf.cap, 0, s.payBuf.written ++ readBytes s.xmem (operand0 s) s.payBuf.free⟩ })
      else
        feedDone (operand1 s)
          { s with
            payBuf := ⟨s.payBuf.cap, s.payBuf.free - operand1 s,
              s.payBuf.written ++ readBytes s.xmem (operand0 s) (operand1 s)⟩ } := by
  rw [exec, execRxFeed_of_ready ho hf hr, feedLoop_payload 1 hx hpos (Nat.zero_le _), List.drop_zero, Nat.sub_zero,
    length_readBytes]
  split
  · rw [take_readBytes _ _ ‹_›, Nat.zero_add]
  · rfl

/-- RX_FEED on a legal chunk that completes a valid header goes on inside the payload (44_framer.md R128 to R130). -/
theorem exec_rxFeed_past_header (hr : RangeLegal s.params (operand0 s) (operand1 s))
    (hx : s.status.rxst = .awaitingHeader) (hpos : 0 < s.hdrBuf.free) (hle : s.hdrBuf.free ≤ operand1 s) {h : Bytes4}
    (hw : s.hdrBuf.written ++ readBytes s.xmem (operand0 s) s.hdrBuf.free = h.toList) {len : U16}
    (hv : validateHeader h s.dec.iv s.dec.mask = some len) (hlen : len ≠ 0) :
    exec .rxFeed s =
      if len.toNat ≤ operand1 s - s.hdrBuf.free then
        feedDone (s.hdrBuf.free + len.toNat) (emitFrame (s.reassembling ⟨s.hdrBuf.cap, 0, h.toList⟩
          ⟨len.toNat, 0, readBytes s.xmem (operand0 s + s.hdrBuf.free) len.toNat⟩ .awaitingPayload))
      else
        feedDone (operand1 s) (s.reassembling ⟨s.hdrBuf.cap, 0, h.toList⟩
          ⟨len.toNat, len.toNat - (operand1 s - s.hdrBuf.free),
            readBytes s.xmem (operand0 s + s.hdrBuf.free) (operand1 s - s.hdrBuf.free)⟩ .awaitingPayload) := by
  rw [exec, execRxFeed_of_ready ho hf hr, feedLoop_header 2 hx hpos, length_readBytes,
    if_neg (Nat.not_lt_of_le hle), take_readBytes _ _ hle, hw]
  dsimp only
  rw [headerBytes_of_written rfl, hv]
  dsimp only
  rw [if_neg hlen, feedLoop_payload 0 rfl (toNat_pos_of_ne_zero hlen) (by rwa [length_readBytes]), length_readBytes,
    drop_readBytes _ _ hle]
  by_cases hfit : len.toNat ≤ operand1 s - s.hdrBuf.free
  · rw [if_pos hfit, ← take_readBytes _ _ hfit]
    exact if_pos hfit
  · rw [if_neg hfit]
    exact if_neg hfit

end

/-- Settles O43: the checks of RX_FEED in their order; with no byte to take the loop ends at once. -/
theorem rxFeedRefusesAsListed : Obligations.RxFeedRefusesAsListed := by
  refine ⟨Laws.RoundTrip.rxFeed rfl, fun s => ⟨fun ho => if_pos ho, fun ho hf => ?_, fun ho hf hr => ?_,
    fun ho hf hr hn hx => ?_⟩⟩
  · exact (if_neg (not_not_intro ho)).trans (if_pos hf)
  · exact exec_rxFeed_of_leaves ho hf (Nat.not_le_of_lt hr)
  · rw [exec, execRxFeed_of_ready ho hf (by unfold RangeLegal; omega), hn]
    exact (if_neg hx).trans (if_pos rfl)

/-- Settles O44: the first branches of `feedLoop_header` and of `exec_rxFeed_in_payload`. -/
theorem rxFeedGathersPartialInput : Obligations.RxFeedGathersPartialInput := by
  refine fun s ho hf hr => ⟨fun hx hn => ?_, fun hx hn => ?_⟩
  · rw [exec, execRxFeed_of_ready ho hf hr, feedLoop_header 2 hx (Nat.zero_lt_of_lt hn), length_readBytes, if_pos hn]
    rfl
  · rw [exec_rxFeed_in_payload ho hf hr hx (Nat.zero_lt_of_lt hn), if_neg (Nat.not_le_of_lt hn)]
    rfl

/-- Settles O45: the second branch of `exec_rxFeed_past_header`. -/
theorem rxFeedCompletesHeader : Obligations.RxFeedCompletesHeader := by
  intro s h len ho hf hr hx hpos hle hw hv hlen hn
  rw [exec_rxFeed_past_header ho hf hr hx hpos hle hw hv hlen, if_neg (Nat.not_le_of_lt hn)]
  rfl

/-- What a frame leaves in XMEM (44_framer.md R124, R129). -/
theorem storesAt_unpackFrame (p : Params) (m : Memory) (a : Nat) (c : List Byte) (iv : Bytes4) :
    StoresAt m (writeBytes m a (unpackFrame p c iv).1) a c.length (tpDecrypt (ivTransform p c iv).1) :=
  storesAt_writeBytes ((length_tpDecrypt _).trans (length_ivTransform p c iv))

/-- Settles O47: the payload that is complete is in PAYBUF when `emitFrame` runs, whether the chunk started inside it
(`exec_rxFeed_in_payload`) or before it (`exec_rxFeed_past_header`). -/
theorem rxFeedEmitsFrame : Obligations.RxFeedEmitsFrame := by
  refine fun s ho hf hr => ⟨fun c hx hpos hle hc => ?_, fun h len c hx hpos hw hv hlen hle hc => ?_⟩
  · refine ⟨_, storesAt_unpackFrame s.params s.xmem s.rxDst.toNat c s.dec.iv, ?_⟩
    rw [exec_rxFeed_in_payload ho hf hr hx hpos, if_pos hle, ← hc]
    rfl
  · refine ⟨_, storesAt_unpackFrame s.params s.xmem s.rxDst.toNat c s.dec.iv, ?_⟩
    rw [exec_rxFeed_past_header ho hf hr hx hpos (Nat.le_of_add_right_le hle) hw hv hlen,
      if_pos (Nat.le_sub_of_add_le' hle), ← hc]
    rfl

/-- A number below 2^32 in a register is what its low half shows (10_state.md R22). -/
theorem regField_low32_ofNat {n : Nat} (h : n < 2 ^ 32) : regField (BitVec.ofNat 64 n) 31 0 = n := by
  rw [regField_low32, BitVec.toNat_ofNat]
  omega

/-- TX_PACK completes only when all its checks pass (44_framer.md R126). -/
theorem legal_of_exec_txPack {s t : State} (ho : SessionOpen s) (h : exec .txPack s = .next t)
    (hc : t.status.cc = .ok) :
    RangeLegal s.params (operand0 s) (operand1 s) ∧ RangeLegal s.params (operand2 s) (operand1 s + 4) ∧
      HeaderLengthLegal (operand1 s) := by
  by_cases hr : RangeLegal s.params (operand0 s) (operand1 s) ∧ RangeLegal s.params (operand2 s) (operand1 s + 4)
  · obtain ⟨h0, h2⟩ := hr
    by_cases hl : HeaderLengthLegal (operand1 s)
    · exact ⟨h0, h2, hl⟩
    · rw [exec_txPack_of_illegal_length ho h0 h2 hl] at h
      cases h
      cases hc
  · rw [exec_txPack_of_leaves ho hr] at h
    cases h
    cases hc

/-- A frame that stands in XMEM is its header and, 4 bytes on, the transformed payload (44_framer.md R123). -/
theorem readBytes_packFrame {p : Params} {payload : List Byte} {r : RollingIv} {m : Memory} {a : Nat}
    (h : readBytes m a (payload.length + 4) = (packFrame p payload r).1) :
    readBytes m a 4 = (constructHeader (BitVec.ofNat 16 payload.length) r.iv r.mask).toList ∧
      readBytes m (a + 4) payload.length = (ivTransform p (tpEncrypt payload) r.iv).1 := by
  rw [Nat.add_comm, readBytes_append] at h
  exact List.append_inj h (length_readBytes m a 4)

/-- RX_FEED of one whole frame that was packed under the decrypt side's IV and mask, with nothing gathered before
(44_framer.md R125, R129, R130): `rxFeedEmitsFrame` on the frame's header and payload. -/
theorem exec_rxFeed_packFrame {s : State} (ho : SessionOpen s) (hf : s.status.frame = false)
    (hr : RangeLegal s.params (operand0 s) (operand1 s)) (hx : s.status.rxst = .awaitingHeader)
    (hfree : s.hdrBuf.free = 4) (hempty : s.hdrBuf.written = []) {payload : List Byte}
    (hl : HeaderLengthLegal payload.length) (hn : operand1 s = payload.length + 4)
    (hframe : readBytes s.xmem (operand0 s) (payload.length + 4) = (packFrame s.params payload s.dec).1) :
    ∃ m, readBytes m s.rxDst.toNat payload.length = payload ∧ exec .rxFeed s = .next (State.ended
      { s with
        xmem := m, r0 := BitVec.ofNat 64 (payload.length + 4)
        dec := { s.dec with iv := shuffleStep s.params s.dec.iv }
        rd := ⟨s.rxDst.toNat, s.rxDst.toNat + payload.length, s.rxDst.toNat⟩
        status := { s.status with frame := true, rxst := .awaitingHeader }
        events := { s.events with frame := true }
        hdrBuf := ⟨4, 4, []⟩, payBuf := ⟨0, 0, []⟩ } .ok) := by
  obtain ⟨hhead, hbody⟩ := readBytes_packFrame hframe
  obtain ⟨hmin, hmax⟩ := hl
  have hlen : (BitVec.ofNat 16 payload.length).toNat = payload.length := Nat.mod_eq_of_lt (Nat.lt_succ_of_le hmax)
  have hne : BitVec.ofNat 16 payload.length ≠ 0 :=
    ne_of_apply_ne BitVec.toNat (by rw [hlen]; exact Nat.ne_of_gt (Nat.lt_of_lt_of_le Nat.two_pos hmin))
  obtain ⟨-, hemits⟩ := rxFeedEmitsFrame s ho hf hr
  obtain ⟨m, ⟨hm, -⟩, he⟩ := hemits _ _ _ hx (by omega) (by rw [hempty, hfree]; exact hhead)
    (validateHeader_constructHeader _ s.dec.iv s.dec.mask) hne (by omega) rfl
  dsimp only at hm he
  rw [hfree, hlen, length_readBytes] at hm he
  rw [hbody, tpDecrypt_ivTransform_packed] at hm
  rw [Nat.add_comm 4] at he
  exact ⟨m, hm, he⟩

/-- Settles O42: TX_PACK that completes has written its frame (`exec_txPack_of_legal`); with equal sides RX_FEED meets
it as `exec_rxFeed_packFrame` asks, and both sides have advanced once. -/
theorem loopbackDeliversPayload : Obligations.LoopbackDeliversPayload := by
  intro s t hs ho hf hx hfree hsides ht hcc
  obtain ⟨h0, h2, hl⟩ := legal_of_exec_txPack ho ht hcc
  rw [exec_txPack_of_legal ho h0 h2 hl] at ht
  cases ht
  obtain ⟨⟨-, hsound⟩, hcap, -⟩ := (reassemblerSound_of_awaitingHeader hx).1 hs.reassembler
  have hempty : s.hdrBuf.written = [] := List.eq_nil_of_length_eq_zero (by omega)
  have hn : (readBytes s.xmem (operand0 s) (operand1 s)).length = operand1 s := length_readBytes _ _ _
  let s' := s.packed.withRegs (BitVec.ofNat 64 (operand2 s)) s.packed.r0 s.packed.a2
  have ha0 : operand0 s' = operand2 s := regField_low32_ofNat (regField_low32_lt s.a2)
  have ha1 : operand1 s' = operand1 s + 4 := regField_low32_ofNat (by omega)
  have hframe : readBytes s'.xmem (operand0 s') (operand1 s + 4) =
      (packFrame s.params (readBytes s.xmem (operand0 s) (operand1 s)) s.dec).1 := by
    rw [ha0, ← hsides]
    exact readBytes_writeBytes_of_length (by rw [length_packFrame, hn])
  obtain ⟨m, hm, he⟩ := exec_rxFeed_packFrame (s := s') ho hf (by rw [ha0, ha1]; exact h2) hx hfree hempty
    (hn.symm ▸ hl) (hn.symm ▸ ha1) (hn.symm ▸ hframe)
  rw [hn] at hm he
  exact ⟨_, he, rfl, rfl, rfl, rfl, hm, rfl,
    congrArg (fun r : RollingIv => { r with iv := shuffleStep s.params r.iv }) hsides.symm, rfl, rfl⟩

end Sys2Proof.Machine
end

section
/-! PROOFS. A chunk may be cut anywhere (44_framer.md R132): feeding its parts one after the other ends as feeding it at
once does. -/

namespace Sys2Proof.Machine

/-- `s` without the fields that RX_FEED's loop does not read and that the end of a command or the host's next operands
replace: two states with the same part end RX_FEED alike. -/
def State.feedPart (s : State) : State := finish .ok { s with a0 := 0, a1 := 0, r0 := 0 }

theorem closeSession_feedPart (r : CloseReason) (s : State) :
    (closeSession r s).feedPart = closeSession r s.feedPart := by
  by_cases ho : SessionOpen s
  · rw [closeSession_of_open r s ho, closeSession_of_open r s.feedPart ho]
    rfl
  · rw [closeSession_of_not_open r s ho, closeSession_of_not_open r s.feedPart ho]

section
variable {s t : State} (h : t.feedPart = s.feedPart)
include h

theorem hdrBuf_eq_of_feedPart : t.hdrBuf = s.hdrBuf := (congrArg State.hdrBuf h :)

theorem payBuf_eq_of_feedPart : t.payBuf = s.payBuf := (congrArg State.payBuf h :)

theorem status_rxst_eq_of_feedPart : t.status.rxst = s.status.rxst := (congrArg (fun u : State => u.status.rxst) h :)

theorem dec_eq_of_feedPart : t.dec = s.dec := (congrArg State.dec h :)

theorem feedPart_reassembling (hb pb : BoundedBuffer) (x : RxPhase) :
    (t.reassembling hb pb x).feedPart = (s.reassembling hb pb x).feedPart :=
  (congrArg (State.reassembling hb pb x) h :)

theorem feedPart_emitFrame : (emitFrame t).feedPart = (emitFrame s).feedPart := (congrArg emitFrame h :)

theorem feedPart_closeSession (r : CloseReason) : (closeSession r t).feedPart = (closeSession r s).feedPart := by
  rw [closeSession_feedPart, closeSession_feedPart, h]

/-- Ended states with the same part differ in the operand registers and R0 only. -/
theorem finish_eq_of_feedPart (c : Code) (v : U64) :
    { finish c (setR0 v s) with r0 := t.r0, a0 := t.a0, a1 := t.a1 } = finish c t := by
  have ht : finish c t = finish c { t.feedPart with r0 := t.r0, a0 := t.a0, a1 := t.a1 } := rfl
  rw [ht, h]
  rfl

end

/-- Two ends of RX_FEED that differ in the operand registers and R0 only: `n` is how far the second command's count is
ahead, `k` what the first one's chunk holds (44_framer.md R132). -/
inductive SameEnd (n k : Nat) : Outcome → Outcome → Prop where
  | done {t s : State} (h : t.feedPart = s.feedPart) {q q' : Nat} (hk : q ≤ k) (hq : q' = n + q) :
      SameEnd n k (feedDone q t) (feedDone q' s)
  | violation {t s : State} (h : t.feedPart = s.feedPart) (r : CloseReason) :
      SameEnd n k (feedViolation r t) (feedViolation r s)

/-- What the same end says of the two next states. -/
theorem SameEnd.exists_next {n k : Nat} {o o' : Outcome} (h : SameEnd n k o o') (hk : n + k < 2 ^ 64) :
    ∃ u v, o = .next u ∧ o' = .next v ∧ { v with r0 := u.r0, a0 := u.a0, a1 := u.a1 } = u ∧
      (u.status.cc = .ok → v.r0.toNat = n + u.r0.toNat) := by
  cases h with
  | @done t s h q _ hq hn =>
    subst hn
    have hR0 : (setR0 (BitVec.ofNat 64 q) t).feedPart = s.feedPart := h
    refine ⟨_, _, rfl, rfl, finish_eq_of_feedPart hR0 .ok _, fun _ => ?_⟩
    simp only [finish_r0, setR0_r0, BitVec.toNat_ofNat]
    omega
  | @violation t s h r =>
    exact ⟨_, _, rfl, rfl, finish_eq_of_feedPart (feedPart_closeSession h r) .protocolViolation _, nofun⟩

/-- `s` with the bytes `x` appended to its payload buffer (44_framer.md R119). -/
def State.gatherPayload (x : List Byte) (s : State) : State :=
  { s with payBuf := ⟨s.payBuf.cap, s.payBuf.free - x.length, s.payBuf.written ++ x⟩ }

/-- `s` with the bytes `x` appended to its header buffer (44_framer.md R119). -/
def State.gatherHeader (x : List Byte) (s : State) : State :=
  { s with hdrBuf := ⟨s.hdrBuf.cap, s.hdrBuf.free - x.length, s.hdrBuf.written ++ x⟩ }

/-- A loop that has gathered the bytes `x` of a payload and goes on at index `q` of `d` ends as the loop at index `p` of
`chunk` does, when the rest of `chunk` is `x` and the rest of `d`; `n` is what `chunk` is ahead of `d`. -/
theorem feedLoop_payload_resumed {s t : State} {chunk d x : List Byte} {n p q : Nat} (passes passes' : Nat)
    (hx : s.status.rxst = .awaitingPayload) (ht : t.feedPart = (s.gatherPayload x).feedPart)
    (hfree : x.length < s.payBuf.free) (hp : p ≤ chunk.length) (hq : q ≤ d.length)
    (hrest : chunk.drop p = x ++ d.drop q) (hn : p + x.length = n + q) :
    SameEnd n d.length (feedLoop d (passes + 2) q t) (feedLoop chunk (passes' + 2) p s) := by
  have hbuf : t.payBuf = ⟨s.payBuf.cap, s.payBuf.free - x.length, s.payBuf.written ++ x⟩ := payBuf_eq_of_feedPart ht
  have hphase : t.status.rxst = .awaitingPayload := (status_rxst_eq_of_feedPart ht).trans hx
  have hlen : chunk.length - p = x.length + (d.length - q) := by
    rw [← List.length_drop, hrest, List.length_append, List.length_drop]
  have hpart (b : BoundedBuffer) : { t with payBuf := b }.feedPart = { s with payBuf := b }.feedPart :=
    (congrArg (fun u : State => { u with payBuf := b }) ht :)
  rw [feedLoop_payload passes hphase (by rw [hbuf]; exact Nat.sub_pos_of_lt hfree) hq,
    feedLoop_payload passes' hx (Nat.zero_lt_of_lt hfree) hp, hrest, hbuf]
  dsimp only
  by_cases hfit : s.payBuf.free ≤ chunk.length - p
  · rw [if_pos (by omega), if_pos hfit, List.take_append, List.take_of_length_le (Nat.le_of_lt hfree),
      ← List.append_assoc]
    exact .done (feedPart_emitFrame (hpart _)) (by omega) (by omega)
  · rw [if_neg (by omega), if_neg hfit, ← List.append_assoc, hlen, Nat.sub_add_eq]
    exact .done (hpart _) (Nat.le_refl _) (by omega)

/-- Inside a header that `c` does not complete, feeding `d` ends as feeding `c ++ d` at once does. -/
theorem feedLoop_header_resumed {s t : State} {c : List Byte} (d : List Byte)
    (hx : s.status.rxst = .awaitingHeader) (ht : t.feedPart = (s.gatherHeader c).feedPart)
    (hfree : c.length < s.hdrBuf.free) :
    SameEnd c.length d.length (feedLoop d 3 0 t) (feedLoop (c ++ d) 3 0 s) := by
  have hbuf : t.hdrBuf = ⟨s.hdrBuf.cap, s.hdrBuf.free - c.length, s.hdrBuf.written ++ c⟩ := hdrBuf_eq_of_feedPart ht
  have hphase : t.status.rxst = .awaitingHeader := (status_rxst_eq_of_feedPart ht).trans hx
  have hdec : t.dec = s.dec := (dec_eq_of_feedPart ht :)
  have hpart (b : BoundedBuffer) : { t with hdrBuf := b, dec := s.dec }.feedPart = { s with hdrBuf := b }.feedPart :=
    (congrArg (fun u : State => { u with hdrBuf := b, dec := s.dec }) ht :)
  rw [feedLoop_header 2 hphase (by rw [hbuf]; exact Nat.sub_pos_of_lt hfree),
    feedLoop_header 2 hx (Nat.zero_lt_of_lt hfree), hbuf, hdec, List.take_append,
    List.take_of_length_le (Nat.le_of_lt hfree), ← List.append_assoc, ← List.append_assoc, List.length_append]
  dsimp only
  by_cases hlt : c.length + d.length < s.hdrBuf.free
  · rw [if_pos (by omega), if_pos hlt, Nat.sub_sub]
    exact .done (hpart _) (Nat.le_refl _) rfl
  · rw [if_neg (by omega), if_neg hlt]
    generalize (⟨s.hdrBuf.cap, 0, s.hdrBuf.written ++ c ++ d.take (s.hdrBuf.free - c.length)⟩ : BoundedBuffer) = b
    cases validateHeader (headerBytes b) s.dec.iv s.dec.mask with
    | none => exact .violation (hpart b) .invalidHeader
    | some len =>
      dsimp only
      by_cases hl : len = 0
      · rw [if_pos hl, if_pos hl]
        exact .violation (hpart b) .zeroLength
      · rw [if_neg hl, if_neg hl]
        have hdrop : (c ++ d).drop s.hdrBuf.free = d.drop (s.hdrBuf.free - c.length) := by
          rw [List.drop_append, List.drop_of_length_le (Nat.le_of_lt hfree), List.nil_append]
        exact feedLoop_payload_resumed (x := []) 0 0 rfl
          (feedPart_reassembling (hpart b) b (resetBuffer len.toNat) .awaitingPayload) (toNat_pos_of_ne_zero hl)
          (by rw [List.length_append]; omega) (by omega) hdrop (by simp; omega)

/-- How the answer `o` of a loop over `c` relates to the answer `o'` of the loop over `c ++ d`, both of which run for a
command that started from `s` (44_framer.md R132). -/
inductive FeedCut (c d : List Byte) (s : State) (o o' : Outcome) : Prop where
  /-- The command over `c` emits a frame or closes the session, and so does the one over both. -/
  | stops (t : State) (ho : o = .next t) (ho' : o' = .next t) (ht : t.status.frame = true ∨ t.status.cc ≠ .ok)
  /-- The command over `c` keeps all of it, and the one over `d` goes on from there. -/
  | resumes (hb pb : BoundedBuffer) (x : RxPhase) (ho : o = feedDone c.length (s.reassembling hb pb x))
      (ho' : ∀ t : State, t.feedPart = (s.reassembling hb pb x).feedPart →
        SameEnd c.length d.length (feedLoop d 3 0 t) o')

/-- Inside a payload the loop may be cut anywhere (44_framer.md R129, R132). -/
theorem feedLoop_payload_cut {s : State} {c : List Byte} {p : Nat} (d : List Byte) (passes : Nat)
    (hx : s.status.rxst = .awaitingPayload) (hf : 0 < s.payBuf.free) (hp : p ≤ c.length) :
    FeedCut c d s (feedLoop c (passes + 2) p s) (feedLoop (c ++ d) (passes + 2) p s) := by
  have hp' : p ≤ (c ++ d).length := by
    rw [List.length_append]
    omega
  have hdrop : (c ++ d).drop p = c.drop p ++ d := List.drop_append_of_le_length hp
  have hlen : (c.drop p).length = c.length - p := List.length_drop
  by_cases hfit : s.payBuf.free ≤ c.length - p
  · have htake : ((c ++ d).drop p).take s.payBuf.free = (c.drop p).take s.payBuf.free := by
      rw [hdrop, List.take_append_of_le_length (by omega)]
    have hfit' : s.payBuf.free ≤ (c ++ d).length - p := by
      rw [List.length_append]
      omega
    rw [feedLoop_payload passes hx hf hp, feedLoop_payload passes hx hf hp', if_pos hfit, if_pos hfit', htake]
    exact .stops _ rfl rfl (.inl rfl)
  · refine .resumes s.hdrBuf (s.gatherPayload (c.drop p)).payBuf .awaitingPayload ?_ fun t ht => ?_
    · rw [feedLoop_payload passes hx hf hp, if_neg hfit, ← hx, ← hlen]
      rfl
    · rw [← hx] at ht
      exact feedLoop_payload_resumed 1 passes hx ht (by omega) hp' (Nat.zero_le _) hdrop (by omega)

/-- Inside a header the loop may be cut anywhere (44_framer.md R128, R132). -/
theorem feedLoop_header_cut {s : State} (c d : List Byte) (hx : s.status.rxst = .awaitingHeader)
    (hf : 0 < s.hdrBuf.free) : FeedCut c d s (feedLoop c 3 0 s) (feedLoop (c ++ d) 3 0 s) := by
  by_cases hlt : c.length < s.hdrBuf.free
  · refine .resumes (s.gatherHeader c).hdrBuf s.payBuf .awaitingHeader ?_ fun t ht => ?_
    · rw [feedLoop_header 2 hx hf, if_pos hlt, ← hx]
      rfl
    · rw [← hx] at ht
      exact feedLoop_header_resumed d hx ht hlt
  · have hle : s.hdrBuf.free ≤ c.length := Nat.le_of_not_lt hlt
    have hlt' : ¬ (c ++ d).length < s.hdrBuf.free := by
      rw [List.length_append]
      omega
    rw [feedLoop_header 2 hx hf, feedLoop_header 2 hx hf, if_neg hlt, if_neg hlt', List.take_append_of_le_length hle]
    dsimp only
    generalize (⟨s.hdrBuf.cap, 0, s.hdrBuf.written ++ c.take s.hdrBuf.free⟩ : BoundedBuffer) = b
    cases validateHeader (headerBytes b) s.dec.iv s.dec.mask with
    | none => exact .stops _ rfl rfl (.inr nofun)
    | some len =>
      dsimp only
      by_cases hl : len = 0
      · rw [if_pos hl, if_pos hl]
        exact .stops _ rfl rfl (.inr nofun)
      · rw [if_neg hl, if_neg hl]
        have hcut := feedLoop_payload_cut d 0 (s := s.reassembling b (resetBuffer len.toNat) .awaitingPayload) rfl
          (toNat_pos_of_ne_zero hl) hle
        cases hcut with
        | stops t ho ho' ht => exact .stops t ho ho' ht
        | resumes hb pb x ho ho' => exact .resumes hb pb x ho ho'

/-- From every sound state of the reassembler the loop may be cut anywhere (44_framer.md R132). -/
theorem feedLoop_cut {s : State} (hs : ReassemblerSound s) (c d : List Byte) :
    FeedCut c d s (feedLoop c 3 0 s) (feedLoop (c ++ d) 3 0 s) := by
  cases hx : s.status.rxst with
  | awaitingHeader =>
    obtain ⟨-, -, -, hf, -⟩ := (reassemblerSound_of_awaitingHeader hx).1 hs
    exact feedLoop_header_cut c d hx hf
  | awaitingPayload =>
    obtain ⟨-, -, -, -, hf, -⟩ := (reassemblerSound_of_awaitingPayload hx).1 hs
    exact feedLoop_payload_cut d 1 hx hf (Nat.zero_le _)

/-- RX_FEED that passes its checks, with the chunk's place and length put into the operand registers. -/
theorem exec_rxFeed_withRegs {s : State} (ho : SessionOpen s) (hf : s.status.frame = false) {a n : Nat} {x y : U64}
    (hx : regField x 31 0 = a) (hy : regField y 31 0 = n) (hr : RangeLegal s.params a n) (z : U64) :
    exec .rxFeed (s.withRegs x y z) = feedLoop (readBytes s.xmem a n) 3 0 (s.withRegs x y z) := by
  subst hx hy
  exact execRxFeed_of_ready ho hf hr

/-- An address of XMEM in a register: its low half shows it, unless it is 2^32, past the last byte, where no byte is
read. -/
theorem readBytes_regField_low32_ofNat {p : Params} (hp : p.Legal) (m : Memory) {a k : Nat} (hr : RangeLegal p a k) :
    RangeLegal p (regField (BitVec.ofNat 64 a) 31 0) k ∧
      readBytes m (regField (BitVec.ofNat 64 a) 31 0) k = readBytes m a k := by
  obtain ⟨-, hmax, -⟩ := hp
  unfold RangeLegal at hr ⊢
  by_cases ha : a < 2 ^ 32
  · rw [regField_low32_ofNat ha]
    exact ⟨hr, rfl⟩
  · obtain rfl : k = 0 := by omega
    have := regField_low32_lt (BitVec.ofNat 64 a)
    exact ⟨by omega, rfl⟩

/-- RX_FEED of the `k` bytes at `a` ends as `o'` does, when every loop over them from a state with the part of `s` does
(44_framer.md R130). -/
theorem exec_rxFeed_rest {s : State} (ho : SessionOpen s) (hf : s.status.frame = false) (hp : s.params.Legal)
    {a n k : Nat} (hr : RangeLegal s.params a k) (hlt : n + k < 2 ^ 32) {o' : Outcome}
    (hd : ∀ t : State, t.feedPart = s.feedPart → SameEnd n k (feedLoop (readBytes s.xmem a k) 3 0 t) o') :
    ∃ u v, exec .rxFeed { s with a0 := BitVec.ofNat 64 a, a1 := BitVec.ofNat 64 k } = .next u ∧ o' = .next v ∧
      v.a2 = s.a2 ∧ { v with r0 := u.r0, a0 := u.a0, a1 := u.a1 } = u ∧
      (u.status.cc = .ok → v.r0.toNat = n + u.r0.toNat) := by
  obtain ⟨hr', hbytes⟩ := readBytes_regField_low32_ofNat hp s.xmem hr
  have hk : regField (BitVec.ofNat 64 k) 31 0 = k := regField_low32_ofNat (by omega)
  have hrest := exec_rxFeed_withRegs ho hf (x := BitVec.ofNat 64 a) rfl hk hr' s.a2
  rw [hbytes] at hrest
  obtain ⟨u, v, hu, hv, hsame, hcount⟩ :=
    (hd (s.withRegs (BitVec.ofNat 64 a) (BitVec.ofNat 64 k) s.a2) rfl).exists_next (by omega)
  obtain ⟨-, -, hua2, -⟩ := operandRegistersNeverWritten .rxFeed _ u (hrest.trans hu)
  exact ⟨u, v, hrest.trans hu, hv, (congrArg State.a2 hsame :).trans hua2, hsame, hcount⟩

/-- Settles O48: the command over the whole chunk is, but for its operand registers, the loop over `c ++ d` from the
state of the command over `c`, and `feedLoop_cut` cuts it there; `exec_rxFeed_rest` is the command over `d`. -/
theorem chunkMayBeCutAnywhere : Obligations.ChunkMayBeCutAnywhere := by
  intro s t n k hs ho hf hr hlt ht
  let s₀ : State := { s with a1 := BitVec.ofNat 64 n }
  let c := readBytes s.xmem (operand0 s) n
  let d := readBytes s.xmem (operand0 s + n) k
  have hfirst : exec .rxFeed s₀ = feedLoop c 3 0 s₀ :=
    exec_rxFeed_withRegs ho hf rfl (regField_low32_ofNat (by omega)) (Nat.le_of_add_right_le hr) s.a2
  have hwhole : exec .rxFeed { s with a1 := BitVec.ofNat 64 (n + k) } =
      mapNext (State.withRegs s.a0 (BitVec.ofNat 64 (n + k)) s.a2) (feedLoop (c ++ d) 3 0 s₀) := by
    rw [← feedLoop_withRegs (s := s₀), ← readBytes_append]
    exact exec_rxFeed_withRegs ho hf rfl (regField_low32_ofNat hlt) (le_trans (Nat.add_assoc _ n k).ge hr) s.a2
  rw [hwhole]
  cases feedLoop_cut (s := s₀) hs.reassembler c d with
  | stops t' hc hcd hend =>
    obtain rfl : t = t' := Host.Outcome.next.inj (ht.symm.trans (hfirst.trans hc))
    obtain ⟨hta0 : t.a0 = s.a0, -, hta2 : t.a2 = s.a2, -⟩ := operandRegistersNeverWritten .rxFeed s₀ t ht
    refine ⟨fun _ => ?_, fun hframe hcc => ?_⟩
    · rw [hcd, mapNext, ← hta0, ← hta2]
      rfl
    · exact absurd hend (by simp [hframe, hcc])
  | resumes hb pb x hc hd =>
    obtain rfl := Host.Outcome.next.inj (ht.symm.trans (hfirst.trans hc))
    refine ⟨fun hend => ?_, fun _ _ => ?_⟩
    · exact hend.elim (fun hframe => absurd (hf.symm.trans hframe) (by decide)) (fun hcc => absurd rfl hcc)
    · rw [length_readBytes, length_readBytes] at hd
      obtain ⟨u, v, hu, hv, hva2, hsame, hcount⟩ := exec_rxFeed_rest
        (s := finish .ok (setR0 (BitVec.ofNat 64 c.length) (s₀.reassembling hb pb x))) ho hf hs.params_legal hr hlt hd
      refine ⟨u, v.withRegs s.a0 (BitVec.ofNat 64 (n + k)) s.a2, hu, by rw [hv, mapNext], ?_, hcount⟩
      rw [← show v.a2 = s.a2 from hva2]
      exact hsame

end Sys2Proof.Machine
end

section
/-! PROOFS. The reader half of the codec (45_codec.md R133 to R138). -/

namespace Sys2Proof.Machine

/-- Settles O51: both commands make one check, of the range. -/
theorem windowCommandsSetWindow : Obligations.WindowCommandsSetWindow :=
  ⟨Laws.RoundTrip.rdWin rfl, Laws.RoundTrip.wrWin rfl, fun _ =>
    ⟨fun h => ⟨if_pos h, if_pos h⟩, fun h => ⟨if_neg (Nat.not_le_of_lt h), if_neg (Nat.not_le_of_lt h)⟩⟩⟩

/-- A descriptor shows its length and its address where they fit (45_codec.md R136 to R138). -/
theorem describes_descriptor (len addr : Nat) : Describes (descriptor len addr) len addr :=
  ⟨descriptor_length, descriptor_address⟩

/-- Settles O55: RD_FULLY has one branch, and its descriptor is of the rest of the window. -/
theorem rdFullyDrainsWindow : Obligations.RdFullyDrainsWindow :=
  ⟨Laws.RoundTrip.rdFully rfl, fun _ => ⟨_, fun _ => describes_descriptor _ _, rfl⟩⟩

/-! Little-endian integers -/

/-- The width codes of 30_encoding.md R73. -/
theorem mem_widthCodes {c : Nat} {width : Width} :
    (c, width) ∈ [(0, Width.w1), (1, .w2), (2, .w4), (3, .w8)] ↔ c = codeOfWidth width := by
  cases width <;> simp [codeOfWidth]

/-- The widths in bytes of 30_encoding.md R73. -/
theorem mem_widthBytes {n : Nat} {width : Width} :
    (n, width) ∈ [(1, Width.w1), (2, .w2), (4, .w4), (8, .w8)] ↔ n = widthBytes width := by
  cases width <;> simp [widthBytes]

theorem widthBytes_le (width : Width) : widthBytes width ≤ 8 := by cases width <;> decide

/-- A little-endian value is the sum of its bytes at their places (00_scope.md R13, R15). -/
theorem readLe_eq_sum (m : Memory) (a n : Nat) :
    readLe m a n = ∑ k ∈ Finset.range n, (readByte m (a + k)).toNat * 2 ^ (8 * k) := by
  induction n generalizing a with
  | zero => rfl
  | succ n ih =>
    have hterm (k : Nat) : (readByte m (a + (k + 1))).toNat * 2 ^ (8 * (k + 1)) =
        256 * ((readByte m (a + 1 + k)).toNat * 2 ^ (8 * k)) := by
      rw [show a + (k + 1) = a + 1 + k by omega, show 8 * (k + 1) = 8 * k + 8 by omega, pow_add]
      ring
    have hcons : readLe m a (n + 1) = (readByte m a).toNat + 256 * readLe m (a + 1) n := rfl
    rw [hcons, ih, Finset.sum_range_succ', Finset.sum_congr rfl fun k _ => hterm k, Finset.mul_sum, Nat.add_comm]
    simp

/-- Up to 8 bytes fit a register (45_codec.md R135). -/
theorem toNat_ofNat_readLe (m : Memory) (a : Nat) {n : Nat} (hn : n ≤ 8) :
    (BitVec.ofNat 64 (readLe m a n)).toNat = readLe m a n := by
  have hlt : readLe m a n < 256 ^ n := by
    have h := leValue_lt (readBytes m a n)
    rwa [length_readBytes] at h
  have hle : 256 ^ n ≤ 256 ^ 8 := Nat.pow_le_pow_right (by decide) hn
  rw [BitVec.toNat_ofNat, Nat.mod_eq_of_lt (by omega)]

/-! The commands -/

section
variable {s : State} (safe : Bool)

theorem exec_rdInt_of_fits {width : Width} (h : ReadFits s (widthBytes width)) :
    exec (.rdInt safe width) s =
      readDone (BitVec.ofNat 64 (readLe s.xmem s.rd.pos (widthBytes width))) (widthBytes width) s :=
  if_pos h

theorem exec_rdInt_of_underruns {width : Width} (h : ¬ ReadFits s (widthBytes width)) :
    exec (.rdInt safe width) s = .next (underrunState safe s) :=
  (if_neg h).trans (underrun_ends safe s)

/-- A string that fits: its length field then fits too (45_codec.md R136). -/
theorem exec_rdLstr_of_fits (h : ReadFits s (2 + lengthPrefix s)) :
    exec (.rdLstr safe) s = readDone (descriptor (lengthPrefix s) (s.rd.pos + 2)) (2 + lengthPrefix s) s := by
  have hprefix : ReadFits s 2 := by omega
  exact (if_neg (not_not_intro hprefix)).trans (if_neg (not_not_intro h))

/-- A length field or a content that does not fit is an underrun of the whole field (45_codec.md R136). -/
theorem exec_rdLstr_of_underruns (h : ¬ ReadFits s (2 + lengthPrefix s)) :
    exec (.rdLstr safe) s = .next (underrunState safe s) := by
  rw [← underrun_ends]
  by_cases hprefix : ReadFits s 2
  · exact (if_neg (not_not_intro hprefix)).trans (if_pos h)
  · exact if_pos hprefix

theorem exec_rdPstr_of_fits {n : Nat} (h0 : n ≠ 0) (h : ReadFits s n) :
    exec (.rdPstr safe n) s = readDone (descriptor (paddedLength s n) s.rd.pos) n s :=
  (if_neg h0).trans (if_neg (not_not_intro h))

theorem exec_rdPstr_of_underruns {n : Nat} (h0 : n ≠ 0) (h : ¬ ReadFits s n) :
    exec (.rdPstr safe n) s = .next (underrunState safe s) :=
  (if_neg h0).trans ((if_pos h).trans (underrun_ends safe s))

end

/-- The word of RD_INT (30_encoding.md R70, R76). -/
theorem encode_rdInt (safe : Bool) (width : Width) :
    encode (.rdInt safe width) = BitVec.ofNat 32 (0x41000000 + safe.toNat * 2 ^ 19 + codeOfWidth width * 2 ^ 16) := by
  cases safe <;> cases width <;> rfl

/-- Settles O52: `readLe_eq_sum` is the value, which `toNat_ofNat_readLe` fits into R0. -/
theorem rdIntReadsLittleEndian : Obligations.RdIntReadsLittleEndian := by
  refine ⟨fun safe c width hc => ?_, fun s safe n width hn => ?_⟩
  · rw [mem_widthCodes.1 hc, ← encode_rdInt]
    exact Laws.RoundTrip.rdInt safe width rfl
  · obtain rfl := mem_widthBytes.1 hn
    have hv := (toNat_ofNat_readLe s.xmem s.rd.pos (widthBytes_le width)).trans (readLe_eq_sum _ _ _)
    exact ⟨fun h => exec_rdInt_of_underruns safe (Nat.not_le_of_lt h), fun h => ⟨_, hv, exec_rdInt_of_fits safe h⟩⟩

/-- The length field is a little-endian u16 (45_codec.md R136). -/
theorem lengthPrefix_eq (s : State) :
    lengthPrefix s = (readByte s.xmem s.rd.pos).toNat + 256 * (readByte s.xmem (s.rd.pos + 1)).toNat := rfl

/-- Settles O53: `lengthPrefix_eq` names the length, and one comparison decides whether the field fits. -/
theorem rdLstrReadsPrefixedString : Obligations.RdLstrReadsPrefixedString := by
  refine ⟨fun safe => ?_, fun s safe => ?_⟩
  · have hword : BitVec.ofNat 32 (0x42000000 + safe.toNat * 2 ^ 19) = encode (.rdLstr safe) := by cases safe <;> rfl
    exact hword ▸ Laws.RoundTrip.rdLstr safe rfl
  · dsimp only
    rw [← lengthPrefix_eq, Nat.add_assoc]
    exact ⟨fun h => exec_rdLstr_of_underruns safe (by omega), fun h =>
      ⟨_, describes_descriptor _ _, exec_rdLstr_of_fits safe h⟩⟩

/-! Padded strings -/

/-- The bytes of a range are those at its addresses (00_scope.md R15). -/
theorem mem_readBytes {m : Memory} {a n : Nat} {b : Byte} :
    b ∈ readBytes m a n ↔ ∃ j < n, readByte m (a + j) = b := by
  simp [List.mem_iff_getElem, getElem_readBytes]

/-- The bytes before the first zero, of at most `k` (45_codec.md R137). -/
theorem takeWhile_readBytes {m : Memory} {a len k : Nat} (hle : len ≤ k) (hne : ∀ b ∈ readBytes m a len, b ≠ 0)
    (hend : len = k ∨ readByte m (a + len) = 0) :
    (readBytes m a k).takeWhile (fun b => b != 0) = readBytes m a len := by
  obtain ⟨j, rfl⟩ := Nat.exists_eq_add_of_le hle
  rw [readBytes_append, List.takeWhile_append_of_pos fun b hb => bne_iff_ne.2 (hne b hb)]
  cases j with
  | zero => simp [readBytes]
  | succ j =>
    have hzero : readByte m (a + len) = 0 := hend.resolve_left (by omega)
    simp [readBytes, hzero]

/-- The length of a padded string is the place of the first zero among the first N - 1 bytes, or N - 1 (45_codec.md
R137). -/
theorem paddedLength_eq {s : State} {n len : Nat} (hle : len ≤ n - 1)
    (hne : ∀ b ∈ readBytes s.xmem s.rd.pos len, b ≠ 0) (hend : len = n - 1 ∨ readByte s.xmem (s.rd.pos + len) = 0) :
    paddedLength s n = len := by
  rw [paddedLength, takeWhile_readBytes hle hne hend, length_readBytes]

/-- Settles O54, with the length of `paddedLength_eq`. -/
theorem rdPstrReadsPaddedString : Obligations.RdPstrReadsPaddedString := by
  refine ⟨fun safe n hn => ?_, fun s safe n => ⟨rfl, fun h0 h => ?_, fun h0 h len hle hne hend => ?_⟩⟩
  · have hword : BitVec.ofNat 32 (0x43000000 + safe.toNat * 2 ^ 19 + n) = encode (.rdPstr safe n) := by
      cases safe <;> rfl
    exact hword ▸ Laws.RoundTrip.rdPstr safe n (decide_eq_true hn)
  · exact exec_rdPstr_of_underruns safe (Nat.ne_of_gt h0) (Nat.not_le_of_lt h)
  · have hne' : ∀ b ∈ readBytes s.xmem s.rd.pos len, b ≠ 0 := fun b hb => by
      obtain ⟨j, hj, rfl⟩ := mem_readBytes.1 hb
      exact hne j hj
    have hlen := paddedLength_eq hle hne' hend
    exact ⟨_, hlen ▸ describes_descriptor _ _, exec_rdPstr_of_fits safe (Nat.ne_of_gt h0) h⟩

end Sys2Proof.Machine
end

section
/-! PROOFS. The writer half of the codec (45_codec.md R139 to R144). -/

namespace Sys2Proof.Machine

section
variable {s : State} {bs : List Byte} {n : Nat} (hn : bs.length = n)
include hn

/-- A write that fits leaves its bytes at the cursor (45_codec.md R140). -/
theorem writeField_of_fits (h : s.wr.pos + n ≤ s.wr.stop) :
    ∃ m, StoresAt s.xmem m s.wr.pos n bs ∧ writeField bs s = .next (wroteField s n m) := by
  obtain ⟨-, he⟩ | ⟨hnot, -⟩ := writeField_ends hn s
  · exact ⟨_, storesAt_writeBytes hn, he⟩
  · exact absurd h hnot

/-- A write that does not fit has no effect (45_codec.md R140). -/
theorem writeField_of_overflows (h : s.wr.stop < s.wr.pos + n) :
    writeField bs s = .next (s.ended .writeOverflow) := by
  obtain ⟨hfits, -⟩ | ⟨-, he⟩ := writeField_ends hn s
  · exact absurd hfits (Nat.not_le_of_lt h)
  · exact he

end

/-- Byte `k` of a little-endian value (00_scope.md R15). -/
theorem getElem_leBytes {n : Nat} (v k : Nat) (h : k < (leBytes n v).length) :
    (leBytes n v)[k] = BitVec.ofNat 8 (v / 2 ^ (8 * k)) := by
  induction n generalizing v k with
  | zero => cases h
  | succ n ih =>
    cases k with
    | zero => simp [leBytes]
    | succ k =>
      simp only [leBytes, List.getElem_cons_succ, ih]
      rw [Nat.div_div_eq_div_mul, show 8 * (k + 1) = 8 + 8 * k by omega, pow_add]
      rfl

/-- The bytes of the value operand are those of A0 (45_codec.md R141). -/
theorem ofNat_valueOperand_div (s : State) {n k : Nat} (hk : k < n) :
    BitVec.ofNat 8 (valueOperand s n / 2 ^ (8 * k)) = s.a0.extractLsb' (8 * k) 8 := by
  have hsplit : 2 ^ (8 * n) = 2 ^ (8 * k) * 2 ^ (8 * (n - k)) := by
    rw [← pow_add, ← Nat.mul_add, Nat.add_sub_cancel' (Nat.le_of_lt hk)]
  have hdvd : 2 ^ 8 ∣ 2 ^ (8 * (n - k)) := pow_dvd_pow 2 (by omega)
  apply BitVec.eq_of_toNat_eq
  rw [toNat_extractByte, BitVec.toNat_ofNat, valueOperand, hsplit, Nat.mod_mul_right_div_self,
    Nat.mod_mod_of_dvd _ hdvd]

/-- Settles O56: WR_INT is a write of `leBytes`, whose bytes `ofNat_valueOperand_div` finds in A0. -/
theorem wrIntWritesLittleEndian : Obligations.WrIntWritesLittleEndian := by
  refine ⟨fun c width hc => ?_, fun s n width hn => ?_⟩
  · have hword : BitVec.ofNat 32 (0x49000000 + codeOfWidth width * 2 ^ 16) = encode (.wrInt width) := by
      cases width <;> rfl
    rw [mem_widthCodes.1 hc, hword]
    exact Laws.RoundTrip.wrInt width rfl
  · obtain rfl := mem_widthBytes.1 hn
    have hlen : (leBytes (widthBytes width) (valueOperand s (widthBytes width))).length = widthBytes width :=
      length_leBytes _ _
    refine ⟨writeField_of_overflows hlen, fun h => ?_⟩
    obtain ⟨m, ⟨hm, hsame⟩, he⟩ := writeField_of_fits hlen h
    refine ⟨m, fun k hk => ?_, hsame, he⟩
    rw [← getElem_readBytes m s.wr.pos (widthBytes width) k (by rwa [length_readBytes]),
      ← ofNat_valueOperand_div s hk]
    simp only [hm, getElem_leBytes]

/-- The parameters that WR_PSTR accepts (45_codec.md R143). -/
abbrev PaddedLegal (s : State) (n : Nat) : Prop :=
  operand1 s < n ∧ RangeLegal s.params (operand0 s) (operand1 s)

section
variable {s : State}

theorem exec_wrLstr_of_legal (hl : operand1 s ≤ 0xFFFF) (hr : RangeLegal s.params (operand0 s) (operand1 s)) :
    exec .wrLstr s = writeField (leBytes 2 (operand1 s) ++ readBytes s.xmem (operand0 s) (operand1 s)) s :=
  if_neg (not_not_intro ⟨hl, hr⟩)

theorem exec_wrLstr_of_illegal (h : ¬ (operand1 s ≤ 0xFFFF ∧ RangeLegal s.params (operand0 s) (operand1 s))) :
    exec .wrLstr s = .next (s.ended .boundsViolation) :=
  if_pos h

theorem exec_wrPstr_of_legal {n : Nat} (h : PaddedLegal s n) :
    exec (.wrPstr n) s =
      writeField (readBytes s.xmem (operand0 s) (operand1 s) ++ List.replicate (n - operand1 s) 0) s :=
  if_neg (by omega)

theorem exec_wrPstr_of_illegal {n : Nat} (h : ¬ PaddedLegal s n) :
    exec (.wrPstr n) s = .next (s.ended .boundsViolation) :=
  if_pos (by omega)

theorem exec_wrBytes_of_legal (hr : RangeLegal s.params (operand0 s) (operand1 s)) :
    exec .wrBytes s = writeField (readBytes s.xmem (operand0 s) (operand1 s)) s :=
  if_neg (not_not_intro hr)

/-- The bytes of a length-prefixed string (45_codec.md R142). -/
theorem length_prefixed (s : State) :
    (leBytes 2 (operand1 s) ++ readBytes s.xmem (operand0 s) (operand1 s)).length = 2 + operand1 s := by
  rw [List.length_append, length_leBytes, length_readBytes]

/-- The bytes of a padded string (45_codec.md R143). -/
theorem length_padded {n : Nat} (h : operand1 s < n) :
    (readBytes s.xmem (operand0 s) (operand1 s) ++ List.replicate (n - operand1 s) 0).length = n := by
  rw [List.length_append, length_readBytes, List.length_replicate, Nat.add_sub_cancel' (Nat.le_of_lt h)]

end

/-- Settles O57: the two checks of WR_LSTR in their order, and a write of length and content. -/
theorem wrLstrWritesPrefixedString : Obligations.WrLstrWritesPrefixedString := by
  refine ⟨Laws.RoundTrip.wrLstr rfl, fun s => ?_⟩
  dsimp only
  rw [Nat.add_assoc]
  refine ⟨fun h => exec_wrLstr_of_illegal (by omega), fun hl hr h => ?_, fun hl hr h => ?_⟩
  · exact (exec_wrLstr_of_legal hl hr).trans (writeField_of_overflows (length_prefixed s) h)
  · rw [exec_wrLstr_of_legal hl hr]
    exact writeField_of_fits (length_prefixed s) h

/-- Settles O58: the checks of WR_PSTR in their order, and a write of content and zeros. -/
theorem wrPstrWritesPaddedString : Obligations.WrPstrWritesPaddedString := by
  refine ⟨fun n hn => Laws.RoundTrip.wrPstr n (decide_eq_true hn), fun s n =>
    ⟨fun h => exec_wrPstr_of_illegal (by omega), fun hl hr h => ?_, fun hl hr h => ?_⟩⟩
  · exact (exec_wrPstr_of_legal ⟨hl, hr⟩).trans (writeField_of_overflows (length_padded hl) h)
  · rw [exec_wrPstr_of_legal ⟨hl, hr⟩]
    exact writeField_of_fits (length_padded hl) h

/-- Settles O59: the check of WR_BYTES, and a write of the source. -/
theorem wrBytesCopiesBytes : Obligations.WrBytesCopiesBytes := by
  refine ⟨Laws.RoundTrip.wrBytes rfl, fun s => ⟨fun h => if_pos (Nat.not_le_of_lt h), fun hr h => ?_, fun hr h => ?_⟩⟩
  · exact (exec_wrBytes_of_legal hr).trans (writeField_of_overflows (length_readBytes _ _ _) h)
  · rw [exec_wrBytes_of_legal hr]
    exact writeField_of_fits (length_readBytes _ _ _) h

end Sys2Proof.Machine
end

section
/-! PROOFS. What a writer command wrote, the reader command of the same kind reads back (45_codec.md R145). -/

namespace Sys2Proof.Machine

/-- `t` is a state in which the bytes `bs` stand where the writer's cursor was in `s`, inside its window, and the cursor
stands past them (45_codec.md R140). -/
structure Wrote (s t : State) (bs : List Byte) : Prop where
  fits : WriteFits s bs.length
  pos : t.wr.pos = s.wr.pos + bs.length
  stored : readBytes t.xmem s.wr.pos bs.length = bs

/-- The reader over the bytes that the writer has written between `s` and `t`. -/
abbrev State.readBack (s t : State) : State := { t with rd := ⟨s.wr.pos, t.wr.pos, s.wr.pos⟩ }

section
variable {s t : State} (hc : t.status.cc = .ok)
include hc

/-- A refusal does not complete (60_exceptions.md R147). -/
theorem code_eq_ok_of_ended {c : Code} {o : Outcome} (h : o = .next t) (he : o = .next (s.ended c)) : c = .ok := by
  obtain rfl := Host.Outcome.next.inj (h.symm.trans he)
  exact hc

/-- A write that completes has fitted (45_codec.md R140). -/
theorem wrote_of_writeField {bs : List Byte} (h : writeField bs s = .next t) : Wrote s t bs := by
  obtain ⟨hfits, he⟩ | ⟨-, he⟩ := writeField_ends rfl s
  · obtain rfl := Host.Outcome.next.inj (h.symm.trans he)
    exact ⟨hfits, rfl, readBytes_writeBytes _ _ _⟩
  · cases code_eq_ok_of_ended hc h he

/-- WR_LSTR that completes has passed its checks (45_codec.md R142). -/
theorem wrote_of_exec_wrLstr (h : exec .wrLstr s = .next t) :
    operand1 s ≤ 0xFFFF ∧ Wrote s t (leBytes 2 (operand1 s) ++ readBytes s.xmem (operand0 s) (operand1 s)) := by
  by_cases hl : operand1 s ≤ 0xFFFF ∧ RangeLegal s.params (operand0 s) (operand1 s)
  · obtain ⟨hmax, hr⟩ := hl
    exact ⟨hmax, wrote_of_writeField hc ((exec_wrLstr_of_legal hmax hr).symm.trans h)⟩
  · cases code_eq_ok_of_ended hc h (exec_wrLstr_of_illegal hl)

/-- WR_PSTR that completes has passed its checks (45_codec.md R143). -/
theorem wrote_of_exec_wrPstr {n : Nat} (h : exec (.wrPstr n) s = .next t) :
    operand1 s < n ∧
      Wrote s t (readBytes s.xmem (operand0 s) (operand1 s) ++ List.replicate (n - operand1 s) 0) := by
  by_cases hl : PaddedLegal s n
  · exact ⟨hl.left, wrote_of_writeField hc ((exec_wrPstr_of_legal hl).symm.trans h)⟩
  · cases code_eq_ok_of_ended hc h (exec_wrPstr_of_illegal hl)

end

/-- Where two parts are written, each is read back at its place. -/
theorem Wrote.parts {s t : State} {bs cs : List Byte} (h : Wrote s t (bs ++ cs)) :
    readBytes t.xmem s.wr.pos bs.length = bs ∧ readBytes t.xmem (s.wr.pos + bs.length) cs.length = cs := by
  have hs := h.stored
  rw [List.length_append, readBytes_append] at hs
  exact List.append_inj hs (length_readBytes _ _ _)

/-- The bytes that a descriptor names (45_codec.md R136). -/
theorem readBytes_descriptor (m : Memory) {len addr : Nat} (hl : len < 2 ^ 32) (ha : addr < 2 ^ 32) :
    readBytes m ((descriptor len addr).toNat % 2 ^ 32) ((descriptor len addr).toNat / 2 ^ 32) =
      readBytes m addr len := by
  rw [descriptor_length hl, descriptor_address ha]

theorem valueOperand_mod (s : State) (n : Nat) : valueOperand s n % 256 ^ n = valueOperand s n := by
  rw [valueOperand, show 256 = 2 ^ 8 by decide, ← pow_mul, Nat.mod_mod]

/-- RD_INT of the width that was written gives the value (45_codec.md R145). -/
theorem rdInt_reads_back {s t : State} (safe : Bool) {width : Width}
    (h : Wrote s t (leBytes (widthBytes width) (valueOperand s (widthBytes width)))) :
    ∃ u, exec (.rdInt safe width) (s.readBack t) = .next u ∧ u.status.cc = .ok ∧ u.status.ok = true ∧
      u.rd.pos = t.wr.pos ∧ u.r0.toNat = s.a0.toNat % 2 ^ (8 * widthBytes width) := by
  obtain ⟨-, hpos, hstored⟩ := h
  rw [length_leBytes] at hpos hstored
  refine ⟨_, exec_rdInt_of_fits safe (Nat.le_of_eq hpos.symm), rfl, rfl, hpos.symm, ?_⟩
  calc
    _ = readLe t.xmem s.wr.pos (widthBytes width) := toNat_ofNat_readLe _ _ (widthBytes_le width)
    _ = valueOperand s (widthBytes width) := by rw [readLe, hstored, leValue_leBytes, valueOperand_mod]

/-- RD_LSTR gives a descriptor of the content (45_codec.md R145). -/
theorem rdLstr_reads_back {s t : State} (safe : Bool) (hstop : s.wr.stop < 2 ^ 32) {content : List Byte} {len : Nat}
    (hlen : content.length = len) (hmax : len ≤ 0xFFFF) (h : Wrote s t (leBytes 2 len ++ content)) :
    ∃ u, exec (.rdLstr safe) (s.readBack t) = .next u ∧ u.status.cc = .ok ∧ u.status.ok = true ∧
      u.rd.pos = t.wr.pos ∧ u.r0.toNat / 2 ^ 32 = len ∧
      readBytes u.xmem (u.r0.toNat % 2 ^ 32) (u.r0.toNat / 2 ^ 32) = content := by
  obtain ⟨hprefix, hcontent⟩ := h.parts
  obtain ⟨hfits, hpos, -⟩ := h
  rw [length_leBytes] at hprefix hcontent
  rw [List.length_append, length_leBytes] at hfits hpos
  rw [hlen] at hfits hpos hcontent
  have hl : len < 2 ^ 32 := by omega
  have haddr : s.wr.pos + 2 < 2 ^ 32 := by omega
  have hread : lengthPrefix (s.readBack t) = len := by
    rw [lengthPrefix, readLe, hprefix, leValue_leBytes, Nat.mod_eq_of_lt (by omega)]
  have he := exec_rdLstr_of_fits (s := s.readBack t) safe (hread.symm ▸ Nat.le_of_eq hpos.symm)
  rw [hread] at he
  exact ⟨_, he, rfl, rfl, hpos.symm, descriptor_length hl, (readBytes_descriptor t.xmem hl haddr).trans hcontent⟩

/-- RD_PSTR of the same N gives a descriptor of the content, when that has no zero byte (45_codec.md R145). -/
theorem rdPstr_reads_back {s t : State} (safe : Bool) (hstop : s.wr.stop < 2 ^ 32) {content : List Byte} {len n : Nat}
    (hlen : content.length = len) (hn : len < n) (hne : ∀ b ∈ content, b ≠ 0)
    (h : Wrote s t (content ++ List.replicate (n - len) 0)) :
    ∃ u, exec (.rdPstr safe n) (s.readBack t) = .next u ∧ u.status.cc = .ok ∧ u.status.ok = true ∧
      u.rd.pos = t.wr.pos ∧ u.rd.pos = s.wr.pos + n ∧ u.r0.toNat / 2 ^ 32 = len ∧
      readBytes u.xmem (u.r0.toNat % 2 ^ 32) (u.r0.toNat / 2 ^ 32) = content := by
  obtain ⟨hcontent, hzeros⟩ := h.parts
  obtain ⟨hfits, hpos, -⟩ := h
  rw [List.length_replicate, hlen] at hzeros
  rw [List.length_append, List.length_replicate, hlen, Nat.add_sub_cancel' (Nat.le_of_lt hn)] at hfits hpos
  rw [hlen] at hcontent
  have hl : len < 2 ^ 32 := by omega
  have haddr : s.wr.pos < 2 ^ 32 := by omega
  have hterminator : readByte t.xmem (s.wr.pos + len) = 0 := by
    apply List.eq_of_mem_replicate (n := n - len)
    rw [← hzeros]
    exact mem_readBytes.2 ⟨0, by omega, rfl⟩
  have hread : paddedLength (s.readBack t) n = len :=
    paddedLength_eq (Nat.le_sub_one_of_lt hn) (hcontent.symm ▸ hne) (.inr hterminator)
  have he := exec_rdPstr_of_fits (s := s.readBack t) safe (Nat.ne_zero_of_lt hn) (Nat.le_of_eq hpos.symm)
  rw [hread] at he
  exact ⟨_, he, rfl, rfl, hpos.symm, rfl, descriptor_length hl, (readBytes_descriptor t.xmem hl haddr).trans hcontent⟩

/-- Settles O60: a writer that completes has written its field (`Wrote`), and the reader of the same kind finds it over
those bytes. -/
theorem codecRoundTrips : Obligations.CodecRoundTrips := by
  refine fun s t safe hstop => ⟨fun width h hc => ?_, fun h hc => ?_, fun n h hc hne => ?_⟩
  · exact rdInt_reads_back safe (wrote_of_writeField hc h)
  · obtain ⟨hmax, hw⟩ := wrote_of_exec_wrLstr hc h
    exact rdLstr_reads_back safe hstop (length_readBytes _ _ _) hmax hw
  · obtain ⟨hn, hw⟩ := wrote_of_exec_wrPstr hc h
    exact rdPstr_reads_back safe hstop (length_readBytes _ _ _) hn hne hw

end Sys2Proof.Machine
end

section
/-! PROOFS. The completion codes of a command (60_exceptions.md R148, R149) and the idle step (R160). -/

namespace Sys2Proof.Machine

/-- Settles O18, by the cases of `exec_raiseEnds`: a refusal and an underrun carry the membership of their code, and the
violation is RX_FEED's. -/
theorem completionCodesAsListed : Obligations.CompletionCodesAsListed := by
  intro i s t h
  have ht : RaiseEnds s i (.next t) := h ▸ exec_raiseEnds i s
  cases ht with
  | completed u => exact .inl rfl
  | refused c hl hk => exact .inr hl
  | underran hl => exact .inr hl
  | violated r hi ho hr =>
    right
    rw [hi, finish_status]
    simp [codesOf]

/-- With an empty sequence the step takes its idle branch. -/
theorem step_of_hostQueue_nil {s : State} (hq : s.hostQueue = []) : step s = .next s := by
  rw [step, hq]

/-- Settles O6. -/
theorem blockIdlesWithoutHostAction : Obligations.BlockIdlesWithoutHostAction := fun _ hq =>
  step_of_hostQueue_nil hq

end Sys2Proof.Machine
end
